-- ==== Sys2Proof/Word.lean ====
section
/-! DEFINITION. Word.lean: the word types of CORE (spec 00_scope.md R9: every value is an unsigned bit vector of the
width its rule states). -/

namespace Sys2Proof

/-- A 32-bit value: the remainder, the result, a command word (10_state.md R22, R23, R32). -/
abbrev Word32 := BitVec 32

/-- A 64-bit value: an operand port, FAULT_INFO (10_state.md R29, R32). -/
abbrev Word64 := BitVec 64

/-- One byte of a buffer (20_memory.md R51). -/
abbrev Byte := BitVec 8

end Sys2Proof
end

