-- ==== Sys2Proof/Config.lean ====
section
/-! DEFINITION. Config.lean: what is fixed when a block is built (00_scope.md R5, R6; 10_state.md R31), and the values
the spec leaves unspecified (43_update_command.md R152, 60_exceptions.md R173). -/

namespace Sys2Proof

/-- `W ∈ {4, 8}`, the width of the word-parallel shifter (00_scope.md R5). -/
inductive WordWidth where
  | w4
  | w8
  deriving DecidableEq, Repr

/-- `W` in bytes. -/
def WordWidth.bytes : WordWidth → Nat
  | .w4 => 4
  | .w8 => 8

/-- The build parameters. `aw` is `AW - 1`, so that every value of the field is one R6 allows (`1 ≤ AW ≤ 64`). -/
structure Config where
  W : WordWidth
  aw : Fin 64
  deriving DecidableEq, Repr

/-- `AW`, the width of the buffer address space in bits (00_scope.md R6). -/
def Config.AW (c : Config) : Nat := c.aw.val + 1

/-- The size of the buffer address space, `2^AW` bytes (00_scope.md R6, 20_memory.md R50). -/
def Config.space (c : Config) : Nat := 2 ^ c.AW

/-- The parameters of an instance that does not say otherwise: W = 8 is what R5 recommends, AW = 64 is what the test
vectors use (R6). DESIGN CHOICE, log 1. -/
def Config.standard : Config := { W := .w8, aw := 63 }

/-- FREE VALUE: `R` after a BUS fault (R152, U6). No body: nothing can be proved about it. Log 8. -/
opaque Config.freeRemainder : Nat → Word32

/-- FREE VALUE: `PTR` after any fault (R173, U7), before its reduction into the register's range. No body. Log 8. -/
opaque Config.freePointer : Nat → Nat

end Sys2Proof
end

