-- ==== Sys2Proof/Machine/Datapath.lean ====
section
/-! DEFINITION. Datapath.lean: the pure functions of 40_datapath.md. No function here reads or writes state. -/

namespace Sys2Proof.Machine

/-- The reflected CRC-32C polynomial (R101). The spec marks its value as general knowledge. -/
def POLY : Word32 := 0x82F63B78

/-- The conditioning constant (00_scope.md R8). -/
def K : Word32 := 0xFFFFFFFF

/-- One step of polynomial reduction (R102). -/
def bitStep (r : Word32) : Word32 :=
  if r.getLsbD 0 then (r >>> 1) ^^^ POLY else r >>> 1

/-- `BitStep`, `n` times. -/
def bitSteps : Nat → Word32 → Word32
  | 0, x => x
  | n + 1, x => bitSteps n (bitStep x)

/-- The byte-residue handler (R103). -/
def byteStep (r : Word32) (b : Byte) : Word32 :=
  bitSteps 8 (r ^^^ b.setWidth 32)

/-- Byte `i` of a word, `d[8i+7 : 8i]`. -/
def byteOf (d : Word64) (i : Nat) : Byte := d.extractLsb' (8 * i) 8

/-- The word-parallel shifter (R104): `W` byte steps, from the least significant byte up. -/
def wordStep (W : WordWidth) (r : Word32) (d : Word64) : Word32 :=
  (List.range W.bytes).foldl (fun x i => byteStep x (byteOf d i)) r

/-- `BitStep'` of R105: `BitStep` on a register of `n` bits, with POLY zero-extended. -/
def bitStepWide (n : Nat) (x : BitVec n) : BitVec n :=
  if x.getLsbD 0 then (x >>> 1) ^^^ POLY.setWidth n else x >>> 1

/-- `BitStep'`, `k` times. -/
def bitStepsWide (n : Nat) : Nat → BitVec n → BitVec n
  | 0, x => x
  | k + 1, x => bitStepsWide n k (bitStepWide n x)

/-- The parallel form of the shifter (R105), a second way to compute `WordStep`. -/
def wordStepParallel (W : WordWidth) (r : Word32) (d : Word64) : Word32 :=
  (bitStepsWide (8 * W.bytes) (8 * W.bytes)
    (r.setWidth (8 * W.bytes) ^^^ d.setWidth (8 * W.bytes))).setWidth 32

/-- `Fold` (R106). -/
def fold : Word32 → List Byte → Word32
  | r, [] => r
  | r, b :: bs => fold (byteStep r b) bs

/-- The conditioned update function, the source's `update(state, buffer)` (R109). -/
def update (s : Word32) (bs : List Byte) : Word32 := fold (s ^^^ K) bs ^^^ K

/-- Bytes composed little-endian: the byte at the lowest address is bits [7:0] (20_memory.md R54). -/
def composeLE : List Byte → Word64
  | [] => 0
  | b :: bs => b.setWidth 64 ||| (composeLE bs <<< 8)

/-- The table of R110: `T[i] = ByteStep(0, i)`. -/
def tableEntry (i : Byte) : Word32 := byteStep 0 i

/-- `q` words composed from consecutive bytes and folded with `WordStep` (R107). -/
def foldWords (W : WordWidth) : Nat → Word32 → List Byte → Word32
  | 0, r, _ => r
  | q + 1, r, bs => foldWords W q (wordStep W r (composeLE (bs.take W.bytes))) (bs.drop W.bytes)

/-- The fold of a byte sequence split into `q = len / W` words and `r = len % W` residue bytes (R107). -/
def foldSplit (W : WordWidth) (r : Word32) (bs : List Byte) : Word32 :=
  fold (foldWords W (bs.length / W.bytes) r bs) (bs.drop (W.bytes * (bs.length / W.bytes)))

end Sys2Proof.Machine
end

