-- ==== Sys2Proof/Syntax.lean ====
section
/-! DEFINITION. Syntax.lean: the six commands with their assembled operands (30_encoding.md R72, R74), and the form in
which the host presents them (R70). -/

namespace Sys2Proof

/-- The six commands. The operands are those of the operand form (30_encoding.md R74), already assembled. -/
inductive Instr where
  /-- `crc.nop` (R120), form N. -/
  | nop
  /-- `crc.load s` (R121), form A32: `s = A[31:0]`. -/
  | load (s : Word32)
  /-- `crc.read` (R122), form N. -/
  | read
  /-- `crc.byte b` (R130), form A8: `b = A[7:0]`. -/
  | byte (b : Byte)
  /-- `crc.word d` (R131), form AW: `d = A[8W-1:0]`, zero-extended to 64 bits (log 18). -/
  | word (d : Word64)
  /-- `crc.update base, len` (R140), form AB: `base = A`, `len = B`. -/
  | update (base len : Word64)
  deriving DecidableEq, Repr

/-- A command as it stands on the command port: the command word and the two operand ports (30_encoding.md R70). -/
structure Command where
  CMD : Word32
  A : Word64
  B : Word64
  deriving DecidableEq, Repr

end Sys2Proof
end

