-- ==== Sys2Proof/Machine/Operands.lean ====
section
/-! DEFINITION. Operands.lean: the command numbers (30_encoding.md R71) and the operand forms of R74, each way: what a
command reads from the ports, and which port bits it reads at all (R73). -/

namespace Sys2Proof

/-- What `CMD` alone selects (30_encoding.md R71, R72). -/
inductive Op where
  | nop
  | load
  | read
  | byte
  | word
  | update
  deriving DecidableEq, Repr

/-- The command number's name of an instruction. -/
def Instr.op : Instr → Op
  | .nop => .nop
  | .load _ => .load
  | .read => .read
  | .byte _ => .byte
  | .word _ => .word
  | .update _ _ => .update

end Sys2Proof

namespace Sys2Proof.Machine

/-- Form A32: `A[31:0]`. -/
def operandA32 (a : Word64) : Word32 := a.extractLsb' 0 32

/-- Form A8: `A[7:0]`. -/
def operandA8 (a : Word64) : Byte := a.extractLsb' 0 8

/-- The bits of a port below bit `n`. -/
def lowBits (n : Nat) : Word64 := BitVec.ofNat 64 (2 ^ n - 1)

/-- Form AW: `A[8W-1:0]`, zero-extended to 64 bits. -/
def operandAW (W : WordWidth) (a : Word64) : Word64 := a &&& lowBits (8 * W.bytes)

/-- The operands of each command, assembled from the ports as its form says (R74). -/
def assemble (W : WordWidth) (op : Op) (a b : Word64) : Instr :=
  match op with
  | .nop => .nop
  | .load => .load (operandA32 a)
  | .read => .read
  | .byte => .byte (operandA8 a)
  | .word => .word (operandAW W a)
  | .update => .update a b

/-- The bits of port `A` that a command reads (R73, R74). -/
def usedA (W : WordWidth) : Op → Word64
  | .nop => 0
  | .load => lowBits 32
  | .read => 0
  | .byte => lowBits 8
  | .word => lowBits (8 * W.bytes)
  | .update => lowBits 64

/-- The bits of port `B` that a command reads (R73, R74). -/
def usedB : Op → Word64
  | .nop => 0
  | .load => 0
  | .read => 0
  | .byte => 0
  | .word => 0
  | .update => lowBits 64

end Sys2Proof.Machine
end

