-- ==== Sys2Proof/WellFormed.lean ====
section
/-! DEFINITION. WellFormed.lean: which instructions an assembler accepts for a block of word width `W` (30_encoding.md
R77: it "rejects a literal too wide for its field"). The types bound every literal but WORD's, whose field is `8W`
bits wide. -/

namespace Sys2Proof

/-- `d < 2^(8W)` for WORD (R77); the other literals are bounded by their types. -/
def Instr.wellFormed (W : WordWidth) : Instr → Bool
  | .nop => true
  | .load _ => true
  | .read => true
  | .byte _ => true
  | .word d => decide (d.toNat < 2 ^ (8 * W.bytes))
  | .update _ _ => true

end Sys2Proof
end

