-- ==== Sys2Proof/Decode.lean ====
section
/-! DEFINITION. Decode.lean: from a presented command to an instruction or a named rejection, total on all 2^32 command
words (30_encoding.md R71, R75), the assembler's encoding (R72, R77) and its pseudo-instructions (R78). -/

namespace Sys2Proof

/-- Why a command word is no command (30_encoding.md R75). Both raise ILLEGAL_CMD. -/
inductive IllegalCmd where
  /-- `CMD[31:4] ≠ 0`, whatever `OP` is (R75, R76). -/
  | reservedBitsSet
  /-- `CMD[31:4] = 0` and `OP` is 6 to 15 (R75). -/
  | unassignedOp
  deriving DecidableEq, Repr

/-- `OP = CMD[3:0]` (R70). -/
def opField (cmd : Word32) : BitVec 4 := cmd.extractLsb' 0 4

/-- `RSV = CMD[31:4]` (R70). -/
def rsvField (cmd : Word32) : BitVec 28 := cmd.extractLsb' 4 28

/-- The case of R71 over `CMD[3:0]`. -/
def decodeOpField (n : Nat) : Except IllegalCmd Op :=
  match n with
  | 0 => .ok .nop
  | 1 => .ok .load
  | 2 => .ok .read
  | 3 => .ok .byte
  | 4 => .ok .word
  | 5 => .ok .update
  | _ => .error .unassignedOp

/-- `Decode(CMD)` (R71). It reads only `CMD`. -/
def decodeOp (cmd : Word32) : Except IllegalCmd Op :=
  if rsvField cmd = 0 then decodeOpField (opField cmd).toNat else .error .reservedBitsSet

/-- A presented command, decoded (R71) and its operands assembled (R74). -/
def decode (W : WordWidth) (c : Command) : Except IllegalCmd Instr :=
  match decodeOp c.CMD with
  | .ok op => .ok (Machine.assemble W op c.A c.B)
  | .error e => .error e

/-- The `CMD` word of each command (R72). -/
def Op.cmdWord : Op → Word32
  | .nop => 0x00000000
  | .load => 0x00000001
  | .read => 0x00000002
  | .byte => 0x00000003
  | .word => 0x00000004
  | .update => 0x00000005

/-- Port `A` as an assembler writes it (R77). -/
def Instr.portA : Instr → Word64
  | .nop => 0
  | .load s => s.setWidth 64
  | .read => 0
  | .byte b => b.setWidth 64
  | .word d => d
  | .update base _ => base

/-- Port `B` as an assembler writes it (R77). -/
def Instr.portB : Instr → Word64
  | .nop => 0
  | .load _ => 0
  | .read => 0
  | .byte _ => 0
  | .word _ => 0
  | .update _ len => len

/-- The command an assembler emits for an instruction (R77): 0 in every ignored operand bit. -/
def encode (i : Instr) : Command :=
  { CMD := i.op.cmdWord, A := i.portA, B := i.portB }

/-- The pseudo-instructions (R78). -/
inductive Pseudo where
  | init
  | checksum (s : Word32) (base len : Word64)
  | wait
  deriving DecidableEq, Repr

/-- What a pseudo-instruction expands to (R78). `crc.wait` is a poll of STATUS by the host and emits no command. -/
def Pseudo.expand : Pseudo → List Instr
  | .init => [.load 0]
  | .checksum s base len => [.load s, .update base len, .read]
  | .wait => []

/-- A command written as one number of `nbits` bits: the command word lowest, then port `A`, then port `B`. -/
def Command.ofTableWord (nbits w : Nat) : Command :=
  { CMD := BitVec.ofNat 32 (w % 2 ^ nbits)
    A := BitVec.ofNat 64 (w % 2 ^ nbits / 2 ^ 32)
    B := BitVec.ofNat 64 (w % 2 ^ nbits / 2 ^ 96) }

/-- The instruction of an opcode-table word. The table gives the operand ports no bits, so they are 0 and `W` makes no
difference. -/
def decodeTableWord (nbits w : Nat) : Option Instr :=
  match decode Config.standard.W (Command.ofTableWord nbits w) with
  | .ok i => some i
  | .error _ => none

end Sys2Proof
end

