-- ==== Sys2Proof/Machine/State.lean ====
section
/-! DEFINITION. State.lean: everything the spec gives CORE (10_state.md), the host-driven ports (R32), the host's memory
(20_memory.md R51, R52) and the host's remaining moves (00_scope.md R11), as plain data; and the reset state. -/

namespace Sys2Proof

/-- What the host can do to CORE (70_reset_and_hazards.md R209). Reading an output port changes nothing and needs no
move. -/
inductive HostMove where
  /-- Present a command: drive `CMD_VALID = 1` and the three ports. -/
  | present (c : Command)
  /-- Drive the `RESET` port to a level (R200, "while RESET = 1"). -/
  | driveReset (level : Bool)
  /-- Pulse reset (R200, "at the step where the host pulses it"). -/
  | pulseReset
  /-- Write a byte of the buffer space and have it readable (R209, "own the buffer"). -/
  | placeByte (addr : Nat) (value : Byte)
  /-- Take an address out of `Readable` (R52). -/
  | removeByte (addr : Nat)
  deriving DecidableEq, Repr

/-- Whose step comes next (00_scope.md R11; log 3). -/
inductive Turn where
  | core
  | host (m : HostMove)
  deriving DecidableEq, Repr

end Sys2Proof

namespace Sys2Proof.Machine

/-- The bytes the memory port can read, as a list of (address, byte): `Mem` on the set `Readable` (20_memory.md R51,
R52). An address that is not listed is not in `Readable`, so its read has no value (log 2). Canonical form: addresses
strictly rising. -/
abbrev Memory := List Host.Cell

/-- `STATUS.CAUSE` (10_state.md R27). Codes 4 to 15 are never written, so they have no constructor. -/
inductive Cause where
  | none
  | illegalCmd
  | range
  | bus
  deriving DecidableEq, Repr

/-- The machine. The names in capitals are the spec's. -/
structure State where
  /-- The build parameters (R5, R6, R31). No step changes them; they stand here so that a statement about every state is
  one about every block. -/
  cfg : Config
  /-- The raw remainder (R22). -/
  R : Word32
  /-- The output register READ writes (R23). -/
  RESULT : Word32
  /-- `STATUS.FAULT` (R26). -/
  FAULT : Bool
  /-- `STATUS.CAUSE` (R27). -/
  CAUSE : Cause
  /-- What the fault recorded (R29). -/
  FAULT_INFO : Word64
  /-- The address of the next byte the sequencer reads, 0 to 2^AW (R30). -/
  PTR : Nat
  /-- Full words still to fold (R30). -/
  WORDS : Nat
  /-- Residue bytes still to fold (R30). -/
  BYTES : Nat
  /-- Input port: a command is presented (R32). -/
  CMD_VALID : Bool
  /-- Input port: the command word (R32, R70). -/
  CMD : Word32
  /-- Input port: operand A (R32, R73). -/
  A : Word64
  /-- Input port: operand B (R32, R73). -/
  B : Word64
  /-- Input port: reset (R32, R200). -/
  RESET : Bool
  /-- The host's memory as the read port shows it (R51, R52). -/
  mem : Memory
  /-- Whose steps come next (R11); when the list is empty, CORE's (log 3). -/
  turns : List Turn
  /-- MODEL'S OWN: how many free values have been taken (log 8). -/
  draws : Nat
  deriving DecidableEq, Repr

/-- What the output ports show (R32), all of it derived or output registers. -/
structure OutputPorts where
  READY : Bool
  STATUS : Word32
  RESULT : Word32
  FAULT_INFO : Word64
  deriving DecidableEq, Repr

/-- The stops that are faults of the model. No instruction's meaning ends in one: CORE's own faults (60_exceptions.md)
are next states with `FAULT = 1`. -/
inductive Fault where
  /-- Raised by a host move that places or removes a byte at an address of `2^AW` or more, which does not exist
  (20_memory.md R50). Safe: the run stops, no value is made up. Log 12. -/
  | noSuchAddress
  deriving DecidableEq, Repr

/-- The stops that are refusals of the model. No instruction's meaning ends in one. -/
inductive Refusal where
  /-- Raised by `exec` for an instruction without a meaning; no arm does. Safe. -/
  | notModelled (mnemonic : String)
  /-- Raised by a host move that presents another command while one is presented and not accepted: the spec gives the
  host no such move (10_state.md R32, 70_reset_and_hazards.md R209). Unsafe only if a host breaks its duty. Log 11. -/
  | portNotHeldStable
  /-- Raised by a host move that changes the memory, a byte or `Readable`, while `BUSY = 1`: of a byte the spec gives the
  host no such move (20_memory.md R51, 70_reset_and_hazards.md R205; log 10), of `Readable` the refusal is the model's
  choice (log 21). Unsafe for a claim that the memory is fixed then; otherwise safe, the run stops. -/
  | memoryChangedWhileBusy
  deriving DecidableEq, Repr

/-- CORE right after reset (70_reset_and_hazards.md R200, R202), with no command presented, no readable byte and no host
move to come. The spec gives the values of the first eight registers; the rest are the choices of logs 1, 3, 5, 8, 9. -/
def State.reset : State :=
  { cfg := Config.standard
    R := 0xFFFFFFFF
    RESULT := 0x00000000
    FAULT := false
    CAUSE := .none
    FAULT_INFO := 0
    PTR := 0
    WORDS := 0
    BYTES := 0
    CMD_VALID := false
    CMD := 0
    A := 0
    B := 0
    RESET := false
    mem := []
    turns := []
    draws := 0 }

end Sys2Proof.Machine
end

