-- ==== Sys2Proof/Machine/Flags.lean ====
section
/-! DEFINITION. Flags.lean: the derived flags and the STATUS word (10_state.md R24, R25, R27, R28). -/

namespace Sys2Proof.Machine

/-- `STATUS.BUSY`: beats are left (R25). -/
def State.BUSY (s : State) : Bool := decide (s.WORDS ≠ 0) || decide (s.BYTES ≠ 0)

/-- `READY = (BUSY = 0) and (FAULT = 0)` (R28). -/
def State.READY (s : State) : Bool := !s.BUSY && !s.FAULT

/-- The code of a cause (R27). -/
def Cause.code : Cause → BitVec 4
  | .none => 0
  | .illegalCmd => 1
  | .range => 2
  | .bus => 3

/-- The STATUS register (R24): bits 31:8 and 3:2 are hardwired to 0. -/
def State.STATUS (s : State) : Word32 :=
  0#24 ++ s.CAUSE.code ++ 0#2 ++ BitVec.ofBool s.FAULT ++ BitVec.ofBool s.BUSY

/-- What the host reads on the output ports (R32). -/
def State.outputs (s : State) : OutputPorts :=
  { READY := s.READY, STATUS := s.STATUS, RESULT := s.RESULT, FAULT_INFO := s.FAULT_INFO }

end Sys2Proof.Machine
end

