-- ==== Sys2Proof/Machine/Ops.lean ====
section
/-! DEFINITION. Ops.lean: the named operations over memory and registers: the read port, the host's writes, taking a
fault, reset, and accepting a command. -/

namespace Sys2Proof.Machine

/-- The byte the read port gives at an address, none where the address is not in `Readable` (20_memory.md R52). -/
def Memory.read : Memory → Nat → Option Byte
  | [], _ => none
  | (a, v) :: m, x => if a = x then some v else Memory.read m x

/-- The host writes a byte and has it readable. -/
def Memory.place : Memory → Nat → Byte → Memory
  | [], x, v => [(x, v)]
  | (a, w) :: m, x, v =>
    if x < a then (x, v) :: (a, w) :: m
    else if x = a then (x, v) :: m
    else (a, w) :: Memory.place m x v

/-- The host makes an address unreadable. -/
def Memory.remove : Memory → Nat → Memory
  | [], _ => []
  | (a, w) :: m, x => if a = x then m else (a, w) :: Memory.remove m x

/-- The canonical form: addresses strictly rising. -/
def Memory.wf : Memory → Bool
  | [] => true
  | [_] => true
  | (a, _) :: (b, w) :: m => decide (a < b) && Memory.wf ((b, w) :: m)

/-- The `n` bytes from `addr` up, in ascending address order (20_memory.md R54, R58), or the lowest address among them
that is not in `Readable` (60_exceptions.md R172). -/
def Memory.readBytes (m : Memory) : Nat → Nat → Except Nat (List Byte)
  | _, 0 => .ok []
  | addr, n + 1 =>
    match m.read addr with
    | none => .error addr
    | some b =>
      match Memory.readBytes m (addr + 1) n with
      | .error a => .error a
      | .ok bs => .ok (b :: bs)

/-- Fault entry (60_exceptions.md R173). `R` is kept for ILLEGAL_CMD and RANGE and a free value for BUS; `PTR` is a free
value of its range (log 8). The command, if any, was consumed where it was accepted. There is no return from a fault:
only reset leaves it (R175). -/
def State.raiseFault (s : State) (cause : Cause) (info : Word64) : State :=
  { s with
    FAULT := true
    CAUSE := cause
    FAULT_INFO := info
    WORDS := 0
    BYTES := 0
    PTR := Config.freePointer s.draws % (s.cfg.space + 1)
    R := if cause = .bus then Config.freeRemainder s.draws else s.R
    draws := s.draws + 1 }

/-- The reset step (70_reset_and_hazards.md R200). It leaves the memory and the host-driven ports alone. -/
def State.resetStep (s : State) : State :=
  { s with
    R := K
    RESULT := 0x00000000
    FAULT := false
    CAUSE := .none
    FAULT_INFO := 0
    PTR := 0
    WORDS := 0
    BYTES := 0 }

/-- The command on the port (30_encoding.md R70). -/
def State.presented (s : State) : Command := { CMD := s.CMD, A := s.A, B := s.B }

/-- The host drives a command onto the port (10_state.md R32). -/
def State.present (s : State) (c : Command) : State :=
  { s with CMD_VALID := true, CMD := c.CMD, A := c.A, B := c.B }

/-- The presented command is consumed (41_state_commands.md R119): none is presented until the host presents the next
(log 4). -/
def State.consume (s : State) : State := { s with CMD_VALID := false }

/-- Write the remainder (R22). -/
def State.setR (s : State) (v : Word32) : State := { s with R := v }

/-- Write RESULT (R23). -/
def State.setRESULT (s : State) (v : Word32) : State := { s with RESULT := v }

/-- Start the sequencer on a buffer of `len` bytes at `base` (43_update_command.md R141): the split of R140 into
`q = len / W` words and `r = len % W` bytes. -/
def State.startSequencer (s : State) (base len : Nat) : State :=
  { s with PTR := base, WORDS := len / s.cfg.W.bytes, BYTES := len % s.cfg.W.bytes }

end Sys2Proof.Machine
end

