-- ==== Sys2Proof/Machine/FoldCommands.lean ====
section
/-! DEFINITION. FoldCommands.lean: BYTE and WORD (42_fold_commands.md). -/

namespace Sys2Proof.Machine

/-- `crc.byte b` (R130): `R <- ByteStep(R, b)`. -/
def execByte (b : Byte) (s : State) : Host.Outcome State Fault Refusal :=
  .next (s.setR (byteStep s.R b))

/-- `crc.word d` (R131): `R <- WordStep(R, d)`. The bits of `d` above `8W-1` are not read. -/
def execWord (d : Word64) (s : State) : Host.Outcome State Fault Refusal :=
  .next (s.setR (wordStep s.cfg.W s.R d))

end Sys2Proof.Machine
end

