-- ==== Sys2Proof/Machine/StateCommands.lean ====
section
/-! DEFINITION. StateCommands.lean: NOP, LOAD and READ (41_state_commands.md). -/

namespace Sys2Proof.Machine

/-- `crc.nop` (R120): no state changes. -/
def execNop (s : State) : Host.Outcome State Fault Refusal := .next s

/-- `crc.load v` (R121): `R <- v ^ K`. -/
def execLoad (v : Word32) (s : State) : Host.Outcome State Fault Refusal :=
  .next (s.setR (v ^^^ K))

/-- `crc.read` (R122): `RESULT <- R ^ K`. -/
def execRead (s : State) : Host.Outcome State Fault Refusal :=
  .next (s.setRESULT (s.R ^^^ K))

end Sys2Proof.Machine
end

