-- ==== Sys2Proof/Machine/UpdateCommand.lean ====
section
/-! DEFINITION. UpdateCommand.lean: what the accept step of UPDATE does (43_update_command.md R140 to R142). The beats
are in Sequencer.lean. -/

namespace Sys2Proof.Machine

/-- `crc.update base, len` (R140). A zero length changes nothing, whatever `base` is (R142); a buffer past the top of
the space raises RANGE (60_exceptions.md R171); otherwise the sequencer starts (R141). The sum is exact. -/
def execUpdate (base len : Word64) (s : State) : Host.Outcome State Fault Refusal :=
  if len = 0 then .next s
  else if base.toNat + len.toNat > s.cfg.space then .next (s.raiseFault .range base)
  else .next (s.startSequencer base.toNat len.toNat)

end Sys2Proof.Machine
end

