-- ==== Sys2Proof/Machine/Dispatch.lean ====
section
/-! DEFINITION. Dispatch.lean: one arm per command: the case of the accept step (41_state_commands.md R119) after the
command is decoded and consumed. -/

namespace Sys2Proof.Machine

def exec (i : Instr) (s : State) : Host.Outcome State Fault Refusal :=
  match i with
  | .nop => Sys2Proof.Machine.execNop s
  | .load v => Sys2Proof.Machine.execLoad v s
  | .read => Sys2Proof.Machine.execRead s
  | .byte b => Sys2Proof.Machine.execByte b s
  | .word d => Sys2Proof.Machine.execWord d s
  | .update base len => Sys2Proof.Machine.execUpdate base len s

end Sys2Proof.Machine
end

