-- ==== Sys2Proof/Machine/Sequencer.lean ====
section
/-! DEFINITION. Sequencer.lean: the beats of UPDATE (43_update_command.md R143 to R146) and what they put on the memory
read port (10_state.md R32). -/

namespace Sys2Proof.Machine

/-- A word beat (R143, R146): one word through the word-parallel shifter, or BUS with the lowest unreadable address. -/
def wordBeat (s : State) : Host.Outcome State Fault Refusal :=
  match s.mem.readBytes s.PTR s.cfg.W.bytes with
  | .error a => .next (s.raiseFault .bus (BitVec.ofNat 64 a))
  | .ok bs =>
    .next { s with
      R := wordStep s.cfg.W s.R (composeLE bs)
      PTR := s.PTR + s.cfg.W.bytes
      WORDS := s.WORDS - 1 }

/-- A byte beat (R144, R146): one byte through the byte-residue handler, or BUS. -/
def byteBeat (s : State) : Host.Outcome State Fault Refusal :=
  match s.mem.read s.PTR with
  | none => .next (s.raiseFault .bus (BitVec.ofNat 64 s.PTR))
  | some b =>
    .next { s with
      R := byteStep s.R b
      PTR := s.PTR + 1
      BYTES := s.BYTES - 1 }

/-- The beat step (R146): words first, then residue bytes. -/
def beat (s : State) : Host.Outcome State Fault Refusal :=
  if 0 < s.WORDS then wordBeat s else byteBeat s

/-- The addresses the next beat reads, in the order in which they stand on MEM_ADDR (R32, R57, R58): none unless a beat
is enabled (R145). A beat that raises BUS is given all the addresses it needs, the unreadable ones and those above them
too; the spec leaves open which of them it reads (R146, R58). DESIGN CHOICE, log 20. -/
def State.beatAddresses (s : State) : List Nat :=
  if s.BUSY && !s.FAULT then
    (List.range (if 0 < s.WORDS then s.cfg.W.bytes else 1)).map (s.PTR + ·)
  else []

end Sys2Proof.Machine
end

