-- ==== Sys2Proof/Machine/Accept.lean ====
section
/-! DEFINITION. Accept.lean: the accept step (41_state_commands.md R119) and which step CORE takes on its turn. -/

namespace Sys2Proof.Machine

/-- The accept step's case over `Decode(CMD)` (R119): an illegal word raises ILLEGAL_CMD with the word as information
(60_exceptions.md R170); a command is executed. The command is consumed either way. -/
def accept (s : State) : Host.Outcome State Fault Refusal :=
  match decode s.cfg.W s.presented with
  | .error _ => .next (s.consume.raiseFault .illegalCmd (s.CMD.setWidth 64))
  | .ok i => exec i s.consume

/-- CORE's turn. Reset takes precedence (R200, R176); in the faulted state CORE takes no step (R175), which leaves the
state as it is (log 6); a beat when `BUSY = 1` (R145), with a presented command held (R204); an accept when one is
presented (R119); otherwise no step is enabled and nothing changes (log 7). -/
def coreStep (s : State) : Host.Outcome State Fault Refusal :=
  if s.RESET then .next s.resetStep
  else if s.FAULT then .next s
  else if s.BUSY then beat s
  else if s.CMD_VALID then accept s
  else .next s

end Sys2Proof.Machine
end

