-- ==== Sys2Proof/Machine/HostMoves.lean ====
section
/-! DEFINITION. HostMoves.lean: what each move of the host does (70_reset_and_hazards.md R209), and the moves the spec
does not give it (R205, R32). -/

namespace Sys2Proof.Machine

/-- A change of the host's memory: none while `BUSY = 1`, neither of a byte (20_memory.md R51, log 10) nor of `Readable`
(the spec forbids only taking an address of the buffer out of it, R205; DESIGN CHOICE, log 21), and none at an address
that does not exist (R50, log 12). -/
def changeMemory (s : State) (addr : Nat) (m : Memory) : Host.Outcome State Fault Refusal :=
  if s.BUSY then .refused .memoryChangedWhileBusy
  else if addr < s.cfg.space then .next { s with mem := m }
  else .fault .noSuchAddress

/-- A command is driven onto the port; one that is presented and not accepted stays as it is (10_state.md R32, log
11). -/
def presentCommand (s : State) (c : Command) : Host.Outcome State Fault Refusal :=
  if s.CMD_VALID && !decide (s.presented = c) then .refused .portNotHeldStable
  else .next (s.present c)

/-- The host's move (R209). -/
def hostMove (m : HostMove) (s : State) : Host.Outcome State Fault Refusal :=
  match m with
  | .present c => presentCommand s c
  | .driveReset level => .next { s with RESET := level }
  | .pulseReset => .next s.resetStep
  | .placeByte addr v => changeMemory s addr (s.mem.place addr v)
  | .removeByte addr => changeMemory s addr (s.mem.remove addr)

end Sys2Proof.Machine
end

