-- ==== Sys2Proof/Machine/Step.lean ====
section
/-! DEFINITION. Step.lean: one step of the whole (00_scope.md R11): the agent whose turn it is takes it. -/

namespace Sys2Proof.Machine

/-- One step: the first turn of the list is taken; when there is none, CORE moves (log 3). -/
def step (s : State) : Host.Outcome State Fault Refusal :=
  match s.turns with
  | [] => coreStep s
  | .core :: rest => coreStep { s with turns := rest }
  | .host m :: rest => hostMove m { s with turns := rest }

/-- `k` steps, stopping at the first fault or refusal. -/
def run : Nat → State → Host.Outcome State Fault Refusal
  | 0, s => .next s
  | k + 1, s =>
    match step s with
    | .next t => run k t
    | .fault f => .fault f
    | .refused r => .refused r

/-- The command of an opcode-table word presented on the port, RESET low, and CORE to move next (log 14). -/
def State.withFetchWord (s : State) (nbits w : Nat) : State :=
  { s.present (Command.ofTableWord nbits w) with RESET := false, turns := .core :: s.turns }

end Sys2Proof.Machine
end

