-- ==== Sys2Proof/Safety.lean ====
section
/-! DEFINITION. Safety.lean: the terms in which claims about runs are stated: which step comes next, what a good end is
(70_reset_and_hazards.md R208), the invariant of the reachable states, and what a legal command is (60_exceptions.md
R176). -/

namespace Sys2Proof.Machine

/-- CORE's turn comes next. -/
def State.coreTurn (s : State) : Bool :=
  match s.turns with
  | .host _ :: _ => false
  | _ => true

/-- The state with the coming turn taken off the list. -/
def State.popTurn (s : State) : State := { s with turns := s.turns.tail }

/-- The host has no move left in its program (R208). -/
def State.hostDone (s : State) : Bool := s.turns.all fun t => decide (t = .core)

/-- The next step is a reset step (R200): CORE's turn with RESET at 1, or the host's pulse. -/
def State.resetting (s : State) : Bool :=
  (s.coreTurn && s.RESET) || decide (s.turns.head? = some (.host .pulseReset))

/-- The next step is an accept step (R119, R28). -/
def State.accepting (s : State) : Bool :=
  s.coreTurn && !s.RESET && s.READY && s.CMD_VALID

/-- The next step is a beat step (R145). -/
def State.beating (s : State) : Bool :=
  s.coreTurn && !s.RESET && s.BUSY && !s.FAULT

/-- A good end of a run (R208). -/
def State.endedWell (s : State) : Bool :=
  !s.FAULT && !s.BUSY && !s.CMD_VALID && s.hostDone

/-- The bytes `bs` stand in memory from `base` up, all of them readable. -/
def Memory.holds (m : Memory) (base : Nat) (bs : List Byte) : Prop :=
  ∀ (i : Nat) (h : i < bs.length), m.read (base + i) = some bs[i]

/-- Every address of `[lo, hi)` is in `Readable` (20_memory.md R52). -/
def Memory.readable (m : Memory) (lo hi : Nat) : Prop :=
  ∀ a, lo ≤ a → a < hi → m.read a ≠ none

/-- The bytes the sequencer still has to fold (R30). -/
def State.bytesLeft (s : State) : Nat := s.cfg.W.bytes * s.WORDS + s.BYTES

/-- What holds of every state a run can reach. -/
structure State.Inv (s : State) : Prop where
  /-- The memory is in its canonical form. -/
  memCanonical : s.mem.wf = true
  /-- Every readable address exists (20_memory.md R50). -/
  memInSpace : ∀ a, s.mem.read a ≠ none → a < s.cfg.space
  /-- PTR and what is left of the buffer stay inside the space (R30, R171). -/
  inSpace : s.PTR + s.bytesLeft ≤ s.cfg.space
  /-- The range of WORDS (R30). -/
  wordsRange : s.WORDS ≤ (2 ^ 64 - 1) / s.cfg.W.bytes
  /-- The range of BYTES (R30). -/
  bytesRange : s.BYTES < s.cfg.W.bytes
  /-- `CAUSE ≠ 0` exactly when `FAULT = 1` (R27). -/
  causeIffFault : s.CAUSE ≠ .none ↔ s.FAULT = true
  /-- A faulted CORE has nothing in flight (R25, R173). -/
  faultIdle : s.FAULT = true → s.BUSY = false

/-- The addresses CORE reads in `k` steps, in the order in which it reads them (20_memory.md R58). A beat that raises BUS
counts as reading all the addresses it needs (DESIGN CHOICE, log 20). -/
def addressesRead : Nat → State → List Nat
  | 0, _ => []
  | k + 1, s =>
    (if s.beating then s.beatAddresses else []) ++
      match step s with
      | .next t => addressesRead k t
      | .fault _ => []
      | .refused _ => []

/-- An outcome with its next state seen through `f`. -/
def seen {α : Type} (f : State → α) : Host.Outcome State Fault Refusal → Host.Outcome α Fault Refusal
  | .next s => .next (f s)
  | .fault e => .fault e
  | .refused e => .refused e

end Sys2Proof.Machine

namespace Sys2Proof

/-- A command that raises no fault where the memory `m` is as readable as it is now (60_exceptions.md R176): one of the
six words and, for an UPDATE of some bytes, a buffer inside the space and inside `Readable`. -/
def Command.legal (cfg : Config) (m : Machine.Memory) (c : Command) : Prop :=
  ∃ i, decode cfg.W c = .ok i ∧
    ∀ base len, i = .update base len → len ≠ 0 →
      base.toNat + len.toNat ≤ cfg.space ∧ m.readable base.toNat (base.toNat + len.toNat)

/-- A turn that presents only legal commands and takes no address out of `Readable`. -/
def Turn.legal (cfg : Config) (m : Machine.Memory) : Turn → Prop
  | .core => True
  | .host (.present c) => Command.legal cfg m c
  | .host (.driveReset _) => True
  | .host .pulseReset => True
  | .host (.placeByte _ _) => True
  | .host (.removeByte _) => False

/-- A state in which nothing to come can raise a fault (60_exceptions.md R176): the bytes still to fold are readable, the
command presented is legal, and so is every turn. -/
structure Machine.State.Legal (s : Machine.State) : Prop where
  notFaulted : s.FAULT = false
  inFlightReadable : s.mem.readable s.PTR (s.PTR + s.bytesLeft)
  presentedLegal : s.CMD_VALID = true → s.presented.legal s.cfg s.mem
  turnsLegal : ∀ u ∈ s.turns, u.legal s.cfg s.mem

end Sys2Proof
end

