-- ==== Sys2Proof/Certificates/Slice0/Obligations.lean ====
section
/-! DEFINITION. Obligations.lean: the statements for the provers. Each docstring names the rules of spec/ it formalises;
where a clause rests on a choice of the model or on an inference that the spec marks as its own, the docstring says
so. -/

open Sys2Proof Sys2Proof.Machine

/-! ## Encoding -/

/-- Decode and encode agree (30_encoding.md R70 to R72, R74, R77): an assembled well-formed instruction decodes to
itself, with every operand at every value, for both word widths. -/
def Obligations.DecodeOfEncodeIsTheInstruction : Prop :=
  ∀ (W : WordWidth) (i : Instr), i.wellFormed W = true → decode W (encode i) = .ok i

/-- The other direction (R73, R74, R77): what decodes is well-formed, and assembling it gives back the command word and
every operand bit the command uses, with 0 in every bit it ignores. -/
def Obligations.EncodeOfDecodeKeepsEveryUsedBit : Prop :=
  ∀ (W : WordWidth) (c : Command) (i : Instr), decode W c = .ok i →
    i.wellFormed W = true ∧ (encode i).CMD = c.CMD ∧
    (encode i).A = c.A &&& usedA W i.op ∧ (encode i).B = c.B &&& usedB i.op

/-- The six command words of R72 with the operands of R74, whatever stands on the ports. -/
def Obligations.SixCommandWordsDecode : Prop :=
  ∀ (W : WordWidth) (a b : Word64),
    decode W ⟨0x00000000, a, b⟩ = .ok .nop ∧
    decode W ⟨0x00000001, a, b⟩ = .ok (.load (a.extractLsb' 0 32)) ∧
    decode W ⟨0x00000002, a, b⟩ = .ok .read ∧
    decode W ⟨0x00000003, a, b⟩ = .ok (.byte (a.extractLsb' 0 8)) ∧
    decode .w4 ⟨0x00000004, a, b⟩ = .ok (.word ((a.extractLsb' 0 32).setWidth 64)) ∧
    decode .w8 ⟨0x00000004, a, b⟩ = .ok (.word a) ∧
    decode W ⟨0x00000005, a, b⟩ = .ok (.update a b)

/-- R75: of the 2^32 words exactly 0 to 5 are commands; every word with a reserved bit set is illegal; NOP is only the
word 0; and every illegal word raises ILLEGAL_CMD at its accept step. -/
def Obligations.EveryOtherWordIsIllegal : Prop :=
  (∀ (W : WordWidth) (c : Command), (∃ i, decode W c = .ok i) ↔ c.CMD.toNat < 6) ∧
  (∀ (W : WordWidth) (c : Command), c.CMD.extractLsb' 4 28 ≠ 0 → ∃ e, decode W c = .error e) ∧
  (∀ (W : WordWidth) (c : Command), decode W c = .ok .nop ↔ c.CMD = 0x00000000) ∧
  (∀ s : State, s.accepting = true → 6 ≤ s.CMD.toNat →
    ∃ t, step s = .next t ∧ t.FAULT = true ∧ t.CAUSE = .illegalCmd)

/-- R73: an operand bit that the presented command ignores has no effect on CORE's step and raises no fault: with other
values in the ignored bits, the step is the same but for the ports themselves. -/
def Obligations.IgnoredOperandBitsHaveNoEffect : Prop :=
  ∀ (s : State) (op : Op) (a b : Word64), s.coreTurn = true → decodeOp s.CMD = .ok op →
    s.A &&& usedA s.cfg.W op = a &&& usedA s.cfg.W op → s.B &&& usedB op = b &&& usedB op →
    step { s with A := a, B := b } = seen (fun t => { t with A := a, B := b }) (step s)

/-! ## The accept step -/

/-- A step runs the decoded command (R119, R28): on CORE's turn, with RESET at 0, READY at 1 and a command presented that
decodes to `i`, the step is `exec i` on the state with the turn taken and the command consumed. That consuming it lowers
CMD_VALID and keeps CMD, A and B is the model's choice (log 4, DEDUCED). -/
def Obligations.StepRunsTheDecodedCommand : Prop :=
  ∀ (s : State) (i : Instr), s.coreTurn = true → s.RESET = false → s.READY = true → s.CMD_VALID = true →
    decode s.cfg.W s.presented = .ok i → step s = exec i s.popTurn.consume

/-- R170: ILLEGAL_CMD, with its condition, what it records, STATUS, and no other effect: what fault entry does not name
is unchanged, and the command is consumed. That CMD_VALID is 0 then, and CMD, A and B are kept, is the model's choice
(log 4, DEDUCED). PTR is a free value (R173) and is not mentioned. -/
def Obligations.IllegalCommandFaults : Prop :=
  ∀ s : State, s.accepting = true →
    s.CMD.extractLsb' 4 28 ≠ 0 ∨ 6 ≤ (s.CMD.extractLsb' 0 4).toNat →
    ∃ t, step s = .next t ∧ t.FAULT = true ∧ t.CAUSE = .illegalCmd ∧ t.CAUSE.code = 1 ∧ t.STATUS = 0x00000012 ∧
      t.FAULT_INFO = s.CMD.setWidth 64 ∧ t.R = s.R ∧ t.RESULT = s.RESULT ∧ t.WORDS = 0 ∧ t.BYTES = 0 ∧
      t.CMD_VALID = false ∧ t.CMD = s.CMD ∧ t.A = s.A ∧ t.B = s.B ∧ t.RESET = s.RESET ∧ t.cfg = s.cfg ∧
      t.turns = s.turns.tail ∧ ∀ a, t.mem.read a = s.mem.read a

/-- R28: READY is 1 exactly when BUSY and FAULT are 0, and CORE takes a presented command only at a step where READY is
1. That a command is taken where CMD_VALID falls (log 4), and that no turn of the host withdraws one (log 11), are the
model's choices (DEDUCED). -/
def Obligations.CommandsAreTakenOnlyWhenReady : Prop :=
  (∀ s : State, s.READY = true ↔ s.BUSY = false ∧ s.FAULT = false) ∧
  (∀ s t : State, step s = .next t → s.CMD_VALID = true → t.CMD_VALID = false →
    s.READY = true ∧ s.coreTurn = true)

/-- R145 and the hold of R204: on CORE's turn with RESET at 0 a beat is enabled exactly when BUSY is 1 and FAULT is 0;
then no accept is enabled, the step is the beat, and a presented command stays presented as it is. -/
def Obligations.CommandIsHeldWhileBusy : Prop :=
  ∀ s : State, s.coreTurn = true → s.RESET = false →
    (s.beating = true ↔ s.BUSY = true ∧ s.FAULT = false) ∧
    (s.BUSY = true → s.accepting = false) ∧
    (s.BUSY = true → s.FAULT = false → step s = beat s.popTurn ∧
      ∃ t, step s = .next t ∧ t.CMD_VALID = s.CMD_VALID ∧ t.presented = s.presented)

/-! ## The commands -/

/-- R120: `crc.nop` has the word 0, changes no state element at all, never faults, and is held while BUSY is 1. -/
def Obligations.NopChangesNothing : Prop :=
  (∀ (W : WordWidth) (a b : Word64), decode W ⟨0x00000000, a, b⟩ = .ok .nop) ∧
  (∀ s : State, exec .nop s = .next s) ∧
  (∀ s : State, s.coreTurn = true → s.RESET = false → s.FAULT = false → s.BUSY = true →
    s.CMD_VALID = true → s.CMD = 0x00000000 → ∃ t, step s = .next t ∧ t.CMD_VALID = true ∧ t.CMD = 0x00000000)

/-- R121: `crc.load v` has the word 1, reads A[31:0], sets `R` to `v ^ 0xFFFFFFFF` and changes nothing else; with 0 the
remainder is that of reset, with 0xFFFFFFFF it is 0. -/
def Obligations.LoadSetsTheRemainder : Prop :=
  (∀ (W : WordWidth) (a b : Word64), decode W ⟨0x00000001, a, b⟩ = .ok (.load (a.extractLsb' 0 32))) ∧
  (∀ (v : Word32) (s : State), exec (.load v) s = .next { s with R := v ^^^ 0xFFFFFFFF }) ∧
  (∀ s : State, exec (.load 0) s = .next { s with R := State.reset.R }) ∧
  (∀ s : State, exec (.load 0xFFFFFFFF) s = .next { s with R := 0 })

/-- R122: `crc.read` has the word 2, sets RESULT to `R ^ 0xFFFFFFFF` and changes nothing else, so that a second READ
gives the same; right after reset RESULT is 0; and it is held while BUSY is 1. -/
def Obligations.ReadReturnsTheChecksumState : Prop :=
  (∀ (W : WordWidth) (a b : Word64), decode W ⟨0x00000002, a, b⟩ = .ok .read) ∧
  (∀ s : State, exec .read s = .next { s with RESULT := s.R ^^^ 0xFFFFFFFF }) ∧
  (∀ s t u : State, exec .read s = .next t → exec .read t = .next u → u = t) ∧
  (∃ t, exec .read State.reset = .next t ∧ t.RESULT = 0) ∧
  (∀ s : State, s.coreTurn = true → s.RESET = false → s.FAULT = false → s.BUSY = true →
    s.CMD_VALID = true → s.CMD = 0x00000002 → ∃ t, step s = .next t ∧ t.CMD_VALID = true ∧ t.RESULT = s.RESULT)

/-- `crc.byte b` (R130): the word 3, A[7:0] alone is read, `R` becomes ByteStep of it and nothing else changes. The
corner case that R130 gives for `b = 0` is a statement of its own. -/
def Obligations.ByteFoldsOneByte : Prop :=
  (∀ (W : WordWidth) (a b : Word64), decode W ⟨0x00000003, a, b⟩ = .ok (.byte (a.extractLsb' 0 8))) ∧
  (∀ (b : Byte) (s : State), exec (.byte b) s = .next { s with R := byteStep s.R b })

/-- R131 with R104: `crc.word d` has the word 4, reads the low `8W` bits of A, folds `W` bytes from the least significant
up and changes nothing else; 0 folded into 0 is 0. -/
def Obligations.WordFoldsItsBytesLowFirst : Prop :=
  (∀ a b : Word64, decode .w4 ⟨0x00000004, a, b⟩ = .ok (.word ((a.extractLsb' 0 32).setWidth 64)) ∧
    decode .w8 ⟨0x00000004, a, b⟩ = .ok (.word a)) ∧
  (∀ (d : Word64) (s : State), exec (.word d) s = .next { s with R := wordStep s.cfg.W s.R d }) ∧
  (∀ (r : Word32) (d : Word64), wordStep .w4 r d =
    byteStep (byteStep (byteStep (byteStep r (d.extractLsb' 0 8)) (d.extractLsb' 8 8)) (d.extractLsb' 16 8))
      (d.extractLsb' 24 8)) ∧
  (∀ (r : Word32) (d : Word64), wordStep .w8 r d =
    byteStep (byteStep (byteStep (byteStep (wordStep .w4 r d) (d.extractLsb' 32 8)) (d.extractLsb' 40 8))
      (d.extractLsb' 48 8)) (d.extractLsb' 56 8)) ∧
  (∀ W : WordWidth, wordStep W 0 0 = 0)

/-- One WORD equals W BYTEs (R132, which the spec marks as derived): if the states `f 0, f 1, ..., f W` follow one another
by `crc.byte` of the bytes of `d` from the least significant up, `crc.word d` goes from the first to the last. -/
def Obligations.WordEqualsItsBytes : Prop :=
  ∀ (d : Word64) (f : Nat → State),
    (∀ i, i < (f 0).cfg.W.bytes → exec (.byte (d.extractLsb' (8 * i) 8)) (f i) = .next (f (i + 1))) →
    exec (.word d) (f 0) = .next (f (f 0).cfg.W.bytes)

/-- R142: an UPDATE of length 0 changes no state and raises no fault, whatever `base` is. -/
def Obligations.ZeroLengthUpdateChangesNothing : Prop :=
  ∀ (base : Word64) (s : State), exec (.update base 0) s = .next s

/-- R141: an UPDATE with `len > 0` inside the space sets PTR, WORDS and BYTES to `base`, `len / W` and `len % W`, leaves
everything else (R among it), and makes BUSY 1 and READY 0; READY stays 0 while a word or a byte is left. -/
def Obligations.UpdateStartsTheSequencer : Prop :=
  (∀ (base len : Word64) (s : State), len ≠ 0 → base.toNat + len.toNat ≤ 2 ^ s.cfg.AW →
    ∃ t, exec (.update base len) s = .next t ∧
      t = { s with PTR := base.toNat, WORDS := len.toNat / s.cfg.W.bytes, BYTES := len.toNat % s.cfg.W.bytes } ∧
      t.BUSY = true ∧ t.READY = false) ∧
  (∀ s : State, s.WORDS ≠ 0 ∨ s.BYTES ≠ 0 → s.READY = false)

/-- R171: RANGE, with its condition (an exact sum), what it records, STATUS, and no other effect; no byte is read; a
buffer that ends exactly at the top is legal. PTR is a free value (R173) and is not mentioned. -/
def Obligations.RangeFaults : Prop :=
  (∀ (base len : Word64) (s : State), len ≠ 0 → base.toNat + len.toNat > 2 ^ s.cfg.AW →
    ∃ t, exec (.update base len) s = .next t ∧ t.FAULT = true ∧ t.CAUSE = .range ∧ t.CAUSE.code = 2 ∧
      t.STATUS = 0x00000022 ∧ t.FAULT_INFO = base ∧ t.R = s.R ∧ t.RESULT = s.RESULT ∧ t.WORDS = 0 ∧ t.BYTES = 0 ∧
      t.beatAddresses = [] ∧ t.CMD_VALID = s.CMD_VALID ∧ t.CMD = s.CMD ∧ t.A = s.A ∧ t.B = s.B ∧
      t.RESET = s.RESET ∧ t.cfg = s.cfg ∧ t.turns = s.turns ∧ ∀ a, t.mem.read a = s.mem.read a) ∧
  (∀ (base len : Word64) (s : State), base.toNat + len.toNat = 2 ^ s.cfg.AW →
    ∃ t, exec (.update base len) s = .next t ∧ t.FAULT = s.FAULT)

/-- The frame of every command (R120 to R122, R130, R131, R140 to R142, R171): the build parameters, the ports, the host's
moves and every byte of memory never change; RESULT only by READ; R only by LOAD, BYTE and WORD; the sequencer and the
fault registers only by UPDATE, and the fault registers only where its buffer runs past the top. -/
def Obligations.FrameOfEveryCommand : Prop :=
  ∀ (i : Instr) (s t : State), exec i s = .next t →
    t.cfg = s.cfg ∧ t.CMD_VALID = s.CMD_VALID ∧ t.CMD = s.CMD ∧ t.A = s.A ∧ t.B = s.B ∧ t.RESET = s.RESET ∧
    t.turns = s.turns ∧ (∀ a, t.mem.read a = s.mem.read a) ∧
    (i.op ≠ .read → t.RESULT = s.RESULT) ∧
    (i.op ≠ .load → i.op ≠ .byte → i.op ≠ .word → t.R = s.R) ∧
    (i.op ≠ .update → t.PTR = s.PTR ∧ t.WORDS = s.WORDS ∧ t.BYTES = s.BYTES ∧ t.STATUS = s.STATUS) ∧
    ((∀ base len, i = .update base len → len ≠ 0 → base.toNat + len.toNat ≤ 2 ^ s.cfg.AW) →
      t.FAULT = s.FAULT ∧ t.CAUSE = s.CAUSE ∧ t.FAULT_INFO = s.FAULT_INFO)

/-! ## The beats -/

/-- R146 and R172: a word beat folds the `W` bytes at PTR in ascending order and advances PTR by `W` and WORDS by one; a
byte beat folds one; where a byte that the beat needs is not readable, BUS is raised with the lowest such address,
nothing is folded (R is a free value then, R152, and so is PTR), and RESULT and the memory stay. -/
def Obligations.BeatFoldsOrRaisesBus : Prop :=
  (∀ (s : State) (bs : List Byte), s.beating = true → 0 < s.WORDS → bs.length = s.cfg.W.bytes →
    s.mem.holds s.PTR bs →
    step s = .next { s.popTurn with
      R := wordStep s.cfg.W s.R (composeLE bs), PTR := s.PTR + s.cfg.W.bytes, WORDS := s.WORDS - 1 }) ∧
  (∀ (s : State) (b : Byte), s.beating = true → s.WORDS = 0 → s.mem.read s.PTR = some b →
    step s = .next { s.popTurn with R := byteStep s.R b, PTR := s.PTR + 1, BYTES := s.BYTES - 1 }) ∧
  (∀ (s : State) (a : Nat), s.beating = true → s.PTR ≤ a →
    a < s.PTR + (if 0 < s.WORDS then s.cfg.W.bytes else 1) → s.mem.read a = none → s.mem.readable s.PTR a →
    ∃ t, step s = .next t ∧ t.FAULT = true ∧ t.CAUSE = .bus ∧ t.CAUSE.code = 3 ∧ t.STATUS = 0x00000032 ∧
      t.FAULT_INFO = BitVec.ofNat 64 a ∧ t.WORDS = 0 ∧ t.BYTES = 0 ∧ t.RESULT = s.RESULT ∧
      t.CMD_VALID = s.CMD_VALID ∧ t.presented = s.presented ∧ t.mem = s.mem) ∧
  (∀ s : State, s.WORDS = 0 → s.BYTES = 0 → s.BUSY = false)

/-! ## Faults -/

/-- R173: every step that takes FAULT from 0 to 1 is fault entry: the cause and STATUS agree, FAULT_INFO is what the
fault's rule records, WORDS and BYTES are 0, RESULT, the memory, the build parameters and the ports stay, R stays for
ILLEGAL_CMD and RANGE, and the command that raised the fault is consumed. PTR (and R for BUS) are free values. That PTR
stays in its range (log 8, DESIGN CHOICE), and that consuming the command lowers CMD_VALID and keeps CMD, A and B (log 4,
DEDUCED), are the model's choices. -/
def Obligations.EveryFaultEntry : Prop :=
  ∀ s t : State, step s = .next t → s.FAULT = false → t.FAULT = true →
    ((t.CAUSE = .illegalCmd ∧ t.STATUS = 0x00000012 ∧ t.FAULT_INFO = s.CMD.setWidth 64 ∧ s.accepting = true ∧
        t.CMD_VALID = false ∧ t.R = s.R) ∨
      (t.CAUSE = .range ∧ t.STATUS = 0x00000022 ∧ t.FAULT_INFO = s.A ∧ s.accepting = true ∧ t.CMD_VALID = false ∧
        t.R = s.R) ∨
      (t.CAUSE = .bus ∧ t.STATUS = 0x00000032 ∧ s.beating = true ∧ t.CMD_VALID = s.CMD_VALID ∧
        ∃ a, t.FAULT_INFO = BitVec.ofNat 64 a ∧ s.PTR ≤ a ∧ a < s.PTR + (if 0 < s.WORDS then s.cfg.W.bytes else 1) ∧
          s.mem.read a = none ∧ s.mem.readable s.PTR a)) ∧
    t.WORDS = 0 ∧ t.BYTES = 0 ∧ t.RESULT = s.RESULT ∧ t.PTR ≤ 2 ^ s.cfg.AW ∧ t.mem = s.mem ∧ t.cfg = s.cfg ∧
    t.CMD = s.CMD ∧ t.A = s.A ∧ t.B = s.B ∧ t.RESET = s.RESET ∧ t.turns = s.turns.tail

/-- R175: in the faulted state CORE takes no step (that its turn is then a step which leaves the state as it is, is the
model's choice: log 6, DEDUCED), and no step but a reset, the host's moves included, changes FAULT, STATUS, RESULT or
FAULT_INFO, makes READY or BUSY 1, or takes a presented command off the port. The premise `BUSY = 0` holds in every
faulted state of the invariant. -/
def Obligations.FaultedStateIsTerminal : Prop :=
  (∀ s : State, s.FAULT = true → s.coreTurn = true → s.RESET = false → step s = .next s.popTurn) ∧
  (∀ s t : State, s.FAULT = true → s.BUSY = false → s.resetting = false → step s = .next t →
    t.FAULT = true ∧ t.STATUS = s.STATUS ∧ t.RESULT = s.RESULT ∧ t.FAULT_INFO = s.FAULT_INFO ∧ t.READY = false ∧
    t.BUSY = false ∧ t.beatAddresses = [] ∧
    (s.CMD_VALID = true → t.CMD_VALID = true ∧ t.presented = s.presented))

/-- R26: FAULT goes to 1 only by fault entry (an accept or a beat that raises a fault) and to 0 only by reset; any other
step leaves FAULT, CAUSE and FAULT_INFO as they are; while FAULT is 1, no accept and no beat is enabled. -/
def Obligations.OnlyFaultEntryAndResetWriteTheFaultRegisters : Prop :=
  (∀ s t : State, step s = .next t →
    (t.FAULT = s.FAULT ∧ t.CAUSE = s.CAUSE ∧ t.FAULT_INFO = s.FAULT_INFO) ∨
    (s.FAULT = false ∧ t.FAULT = true ∧ (s.accepting = true ∨ s.beating = true)) ∨
    (s.resetting = true ∧ t.FAULT = false ∧ t.CAUSE = .none ∧ t.FAULT_INFO = 0)) ∧
  (∀ s : State, s.FAULT = true → s.accepting = false ∧ s.beating = false)

/-! ## Reset -/

/-- R200: a reset step, by the level or by the pulse, whatever else is enabled: every state element at its reset value,
READY 1, the memory, the ports and the build parameters as they were, and no beat and no read of memory; a command still
presented is accepted on CORE's next turn with RESET at 0; and nothing but a reset takes FAULT from 1 to 0. That a pulse
leaves the RESET port as it is, is the model's choice (log 16, DESIGN CHOICE). -/
def Obligations.ResetRestoresEveryElement : Prop :=
  (∀ s : State, s.resetting = true → ∃ t, step s = .next t ∧
    t.R = 0xFFFFFFFF ∧ t.RESULT = 0x00000000 ∧ t.STATUS = 0x00000000 ∧ t.FAULT = false ∧ t.CAUSE = .none ∧
    t.FAULT_INFO = 0 ∧ t.PTR = 0 ∧ t.WORDS = 0 ∧ t.BYTES = 0 ∧ t.READY = true ∧ t.mem = s.mem ∧
    t.CMD_VALID = s.CMD_VALID ∧ t.CMD = s.CMD ∧ t.A = s.A ∧ t.B = s.B ∧ t.RESET = s.RESET ∧ t.cfg = s.cfg ∧
    t.turns = s.turns.tail ∧
    (t.CMD_VALID = true → t.RESET = false → t.coreTurn = true → t.accepting = true)) ∧
  (∀ s : State, s.resetting = true → s.beating = false ∧ addressesRead 1 s = []) ∧
  (∀ s t : State, step s = .next t → s.FAULT = true → t.FAULT = false → s.resetting = true)

/-- R201: a reset while BUSY is 1 aborts the UPDATE: no beat is left, what was folded is lost, and no fault is
recorded. -/
def Obligations.ResetAbortsTheUpdate : Prop :=
  ∀ s : State, s.BUSY = true → s.resetting = true → ∃ t, step s = .next t ∧
    t.BUSY = false ∧ t.beating = false ∧ t.beatAddresses = [] ∧ t.R = 0xFFFFFFFF ∧ t.FAULT = false ∧
    t.CAUSE = .none

/-- The launch state of R202: R, RESULT, STATUS, FAULT_INFO, nothing in flight, READY. That no command is presented is
the model's choice (log 5). -/
def Obligations.LaunchState : Prop :=
  State.reset.R = 0xFFFFFFFF ∧ State.reset.RESULT = 0 ∧ State.reset.STATUS = 0 ∧ State.reset.FAULT_INFO = 0 ∧
  State.reset.WORDS = 0 ∧ State.reset.BYTES = 0 ∧ State.reset.READY = true ∧ State.reset.CMD_VALID = false

/-! ## Rules of the whole machine -/

/-- Every step keeps the invariant: canonical memory inside the space, PTR and the rest of the buffer inside the space,
the ranges of WORDS and BYTES (R30), CAUSE nonzero exactly when FAULT is 1 (R27), nothing in flight while FAULT is 1
(R25). For every state, every turn and both word widths. -/
def Obligations.EveryStepKeepsTheInvariant : Prop :=
  ∀ s t : State, s.Inv → step s = .next t → t.Inv

/-- The reset state has the invariant. -/
def Obligations.ResetHasTheInvariant : Prop := State.reset.Inv

/-- R24, whose list of values the spec marks as derived: the fields of STATUS at their bits, the reserved bits 0, and
under the invariant one of five values. -/
def Obligations.StatusHoldsOneOfFiveValues : Prop :=
  (∀ s : State, s.STATUS.getLsbD 0 = s.BUSY ∧ s.STATUS.getLsbD 1 = s.FAULT ∧ s.STATUS.extractLsb' 2 2 = 0 ∧
    s.STATUS.extractLsb' 4 4 = s.CAUSE.code ∧ s.STATUS.extractLsb' 8 24 = 0) ∧
  (∀ s : State, s.Inv → s.STATUS = 0x00000000 ∨ s.STATUS = 0x00000001 ∨ s.STATUS = 0x00000012 ∨
    s.STATUS = 0x00000022 ∨ s.STATUS = 0x00000032)

/-- R53: CORE never writes memory: no step of CORE, a reset included, changes it. -/
def Obligations.CoreNeverWritesMemory : Prop :=
  ∀ s t : State, s.coreTurn = true ∨ s.resetting = true → step s = .next t → t.mem = s.mem

/-- R23: RESULT changes only by an accepted READ, to `R ^ 0xFFFFFFFF`, or by reset, to 0; fault entry keeps it. -/
def Obligations.OnlyReadAndResetWriteResult : Prop :=
  (∀ s t : State, step s = .next t →
    t.RESULT = s.RESULT ∨
    (s.accepting = true ∧ s.CMD = 0x00000002 ∧ t.RESULT = s.R ^^^ 0xFFFFFFFF) ∨
    (s.resetting = true ∧ t.RESULT = 0x00000000)) ∧
  (∀ s t : State, step s = .next t → s.FAULT = false → t.FAULT = true → t.RESULT = s.RESULT) ∧
  State.reset.RESULT = 0x00000000

/-- R22's "No other step writes R": R changes only by an accepted LOAD, BYTE or WORD, by a beat (a BUS fault among them,
which leaves it free, R152) or by reset. -/
def Obligations.OnlyFoldsLoadAndResetWriteR : Prop :=
  ∀ s t : State, step s = .next t →
    t.R = s.R ∨
    (s.accepting = true ∧ s.CMD = 0x00000001 ∧ t.R = s.A.extractLsb' 0 32 ^^^ 0xFFFFFFFF) ∨
    (s.accepting = true ∧ s.CMD = 0x00000003 ∧ t.R = byteStep s.R (s.A.extractLsb' 0 8)) ∨
    (s.accepting = true ∧ s.CMD = 0x00000004 ∧ t.R = wordStep s.cfg.W s.R s.A) ∨
    s.beating = true ∨
    (s.resetting = true ∧ t.R = 0xFFFFFFFF)

/-- R31: W and AW are fixed when the block is built: no run changes them. -/
def Obligations.BuildParametersNeverChange : Prop :=
  ∀ (n : Nat) (s t : State), run n s = .next t → t.cfg = s.cfg

/-- R51: the memory does not change while BUSY is 1. That the model refuses the host's move is its choice (log 10), and
that `Readable` does not change then either is too (log 21, DESIGN CHOICE). -/
def Obligations.MemoryIsFixedWhileBusy : Prop :=
  ∀ s t : State, s.BUSY = true → step s = .next t → t.mem = s.mem

/-- R32's last paragraph: while a command is presented, the ports stay as they are until the step that accepts it. That
the model refuses the host's move, and gives it none that withdraws a command, is its choice (log 11). -/
def Obligations.PortsStayStableUntilAccepted : Prop :=
  ∀ s t : State, step s = .next t → s.CMD_VALID = true →
    (t.CMD_VALID = true ∧ t.presented = s.presented) ∨ s.accepting = true

/-- What the host's moves on memory do (R209, R50, R51; logs 2, 10, 12, 21 are the model's choices): a placed byte reads
back, a removed address has no byte, every other address is as before, and nothing but the memory changes; an address
outside the space faults; while BUSY is 1 the move is refused. -/
def Obligations.HostMemoryMoves : Prop :=
  (∀ (s : State) (a : Nat) (v : Byte) (rest : List Turn), s.turns = .host (.placeByte a v) :: rest →
    s.BUSY = false → a < 2 ^ s.cfg.AW → ∃ t, step s = .next t ∧ t.mem.read a = some v ∧
      (∀ x, x ≠ a → t.mem.read x = s.mem.read x) ∧ t = { s with mem := t.mem, turns := rest }) ∧
  (∀ (s : State) (a : Nat) (rest : List Turn), s.turns = .host (.removeByte a) :: rest →
    s.mem.wf = true → s.BUSY = false → a < 2 ^ s.cfg.AW → ∃ t, step s = .next t ∧ t.mem.read a = none ∧
      (∀ x, x ≠ a → t.mem.read x = s.mem.read x) ∧ t = { s with mem := t.mem, turns := rest }) ∧
  (∀ (s : State) (a : Nat) (v : Byte) (rest : List Turn),
    s.turns = .host (.placeByte a v) :: rest ∨ s.turns = .host (.removeByte a) :: rest →
    s.BUSY = false → 2 ^ s.cfg.AW ≤ a → step s = .fault .noSuchAddress) ∧
  (∀ (s : State) (a : Nat) (v : Byte) (rest : List Turn),
    s.turns = .host (.placeByte a v) :: rest ∨ s.turns = .host (.removeByte a) :: rest →
    s.BUSY = true → step s = .refused .memoryChangedWhileBusy)

/-! ## What an UPDATE does, from its acceptance to its last beat

In these statements the host has no move left (`hostDone`), so the steps are CORE's. -/

/-- R147: an accepted UPDATE of `len > 0` readable bytes inside the space completes after exactly `q + r` beats: BUSY is 1
before the last one, and after it WORDS and BYTES are 0, PTR is `base + len`, READY is 1, and RESULT, the fault
registers and the memory are as they were. -/
def Obligations.UpdateCompletesAfterQPlusRBeats : Prop :=
  ∀ (s : State) (base len : Word64), s.accepting = true → s.hostDone = true →
    decode s.cfg.W s.presented = .ok (.update base len) → len ≠ 0 → base.toNat + len.toNat ≤ 2 ^ s.cfg.AW →
    s.mem.readable base.toNat (base.toNat + len.toNat) →
    (∀ k, k < len.toNat / s.cfg.W.bytes + len.toNat % s.cfg.W.bytes →
      ∃ u, run (1 + k) s = .next u ∧ u.beating = true) ∧
    ∃ t, run (1 + (len.toNat / s.cfg.W.bytes + len.toNat % s.cfg.W.bytes)) s = .next t ∧
      t.WORDS = 0 ∧ t.BYTES = 0 ∧ t.BUSY = false ∧ t.PTR = base.toNat + len.toNat ∧ t.READY = true ∧
      t.RESULT = s.RESULT ∧ t.FAULT = false ∧ t.CAUSE = s.CAUSE ∧ t.FAULT_INFO = s.FAULT_INFO ∧ t.mem = s.mem

/-- What an UPDATE computes (R148, which the spec marks as derived): R ends as the fold of the buffer's bytes in ascending
address order, for both word widths. -/
def Obligations.UpdateFoldsTheBuffer : Prop :=
  ∀ (s : State) (base len : Word64) (bs : List Byte), s.accepting = true → s.hostDone = true →
    decode s.cfg.W s.presented = .ok (.update base len) → base.toNat + len.toNat ≤ 2 ^ s.cfg.AW →
    bs.length = len.toNat → s.mem.holds base.toNat bs →
    ∃ t, run (1 + (len.toNat / s.cfg.W.bytes + len.toNat % s.cfg.W.bytes)) s = .next t ∧
      t.READY = true ∧ t.R = fold s.R bs

/-- R58: an UPDATE with `len > 0` reads `base, base + 1, ..., base + len - 1`, each exactly once and in ascending order,
and no other address: after any number of steps what was read is the beginning of that list; with the buffer readable it
is all of it after the last beat; a RANGE fault comes before any read; and after a BUS fault nothing is read. What
counts as read is the model's choice: a beat's addresses are a function of the state (log 17, DEDUCED), and the beat
that raises BUS is given all it needs (log 20, DESIGN CHOICE); what the clauses say of it holds as well where it reads
fewer. -/
def Obligations.UpdateReadsEachAddressOnceAscending : Prop :=
  ∀ (s : State) (base len : Word64), s.accepting = true → s.hostDone = true →
    decode s.cfg.W s.presented = .ok (.update base len) → len ≠ 0 →
    (∀ k, addressesRead k s <+: (List.range len.toNat).map (base.toNat + ·)) ∧
    (base.toNat + len.toNat ≤ 2 ^ s.cfg.AW → s.mem.readable base.toNat (base.toNat + len.toNat) →
      addressesRead (1 + (len.toNat / s.cfg.W.bytes + len.toNat % s.cfg.W.bytes)) s =
        (List.range len.toNat).map (base.toNat + ·)) ∧
    (base.toNat + len.toNat > 2 ^ s.cfg.AW → ∀ k, addressesRead k s = []) ∧
    (∀ (k n : Nat) (t : State), run k s = .next t → t.FAULT = true → addressesRead n t = [])

/-- The UPDATE's one fault (R172, R174, R176): where the lowest unreadable address of the buffer is `a`, the UPDATE ends
in BUS with `a` in FAULT_INFO within its `q + r` beats, and RESULT and the memory are as they were. R and PTR are free
values then and are not mentioned. -/
def Obligations.UpdateReportsTheLowestUnreadableAddress : Prop :=
  ∀ (s : State) (base len : Word64) (a : Nat), s.accepting = true → s.hostDone = true →
    decode s.cfg.W s.presented = .ok (.update base len) → base.toNat + len.toNat ≤ 2 ^ s.cfg.AW →
    base.toNat ≤ a → a < base.toNat + len.toNat → s.mem.read a = none → s.mem.readable base.toNat a →
    ∃ n t, n ≤ 1 + (len.toNat / s.cfg.W.bytes + len.toNat % s.cfg.W.bytes) ∧ run n s = .next t ∧
      t.FAULT = true ∧ t.CAUSE = .bus ∧ t.STATUS = 0x00000032 ∧ t.FAULT_INFO.toNat = a ∧ t.RESULT = s.RESULT ∧
      t.mem = s.mem

/-- The result of an UPDATE does not depend on the word width (R5, R148; the source's "chunking is not observable"): of
two blocks that differ only in W and accept the same UPDATE, each after its own `q + r` beats has taken the command and
has none left to do, and they differ only in W and in which of CORE's turns are left. That a taken command lowers
CMD_VALID is the model's choice (log 4). -/
def Obligations.WordWidthIsNotObservable : Prop :=
  ∀ (s : State) (W' : WordWidth) (base len : Word64), s.accepting = true → s.hostDone = true →
    decode s.cfg.W s.presented = .ok (.update base len) → base.toNat + len.toNat ≤ 2 ^ s.cfg.AW →
    s.mem.readable base.toNat (base.toNat + len.toNat) →
    ∃ t t', run (1 + (len.toNat / s.cfg.W.bytes + len.toNat % s.cfg.W.bytes)) s = .next t ∧
      run (1 + (len.toNat / W'.bytes + len.toNat % W'.bytes)) { s with cfg := { s.cfg with W := W' } } = .next t' ∧
      t.CMD_VALID = false ∧ t.BUSY = false ∧ t.READY = true ∧ t'.CMD_VALID = false ∧ t'.BUSY = false ∧
      t'.READY = true ∧ t' = { t with cfg := { s.cfg with W := W' }, turns := t'.turns }

/-- The source's contract (R206, which the spec marks as derived): the host presents LOAD v, UPDATE base, len and READ,
each after the one before was accepted; the READ is held behind the beats. The run ends well with RESULT the checksum of
the bytes and STATUS 0, for every length, 0 among them. That a command taken lowers CMD_VALID is the model's choice
(log 4). -/
def Obligations.LoadUpdateReadComputesTheChecksum : Prop :=
  ∀ (s : State) (v : Word32) (base len : Word64) (bs : List Byte),
    s.READY = true → s.RESET = false → s.CMD_VALID = false → s.CAUSE = .none →
    s.turns = [.host (.present (encode (.load v))), .core, .host (.present (encode (.update base len))), .core,
      .host (.present (encode .read))] →
    base.toNat + len.toNat ≤ 2 ^ s.cfg.AW → bs.length = len.toNat → s.mem.holds base.toNat bs →
    ∃ t, run (6 + (len.toNat / s.cfg.W.bytes + len.toNat % s.cfg.W.bytes)) s = .next t ∧
      t.RESULT = update v bs ∧ t.STATUS = 0x00000000 ∧ t.endedWell = true ∧ t.mem = s.mem

/-- Streaming (R149, which the spec marks as derived): two UPDATEs in a row, the second presented while the first may
still be in flight, leave R as the fold of both buffers' bytes one after the other; and a READ followed by a LOAD of
what it returned keeps R. That a command taken lowers CMD_VALID is the model's choice (log 4). -/
def Obligations.StreamingFoldsTheConcatenation : Prop :=
  (∀ (s : State) (b1 n1 b2 n2 : Word64) (xs ys : List Byte),
    s.READY = true → s.RESET = false → s.CMD_VALID = false →
    s.turns = [.host (.present (encode (.update b1 n1))), .core, .host (.present (encode (.update b2 n2)))] →
    b1.toNat + n1.toNat ≤ 2 ^ s.cfg.AW → xs.length = n1.toNat → s.mem.holds b1.toNat xs →
    b2.toNat + n2.toNat ≤ 2 ^ s.cfg.AW → ys.length = n2.toNat → s.mem.holds b2.toNat ys →
    ∃ n t, run n s = .next t ∧ t.endedWell = true ∧ t.R = fold s.R (xs ++ ys)) ∧
  (∀ s t u : State, exec .read s = .next t → exec (.load t.RESULT) t = .next u → u.R = s.R)

/-- R176's last paragraph (which the spec marks as derived): a run in which every command presented is legal (one of the
six words, every UPDATE's buffer inside the space and inside `Readable`), what is in flight is readable, and the host
takes no address out of `Readable`, never has FAULT at 1. Resets and host writes may come in between; that a move which
breaks a duty ends the run is the model's choice (logs 10, 11, 21). -/
def Obligations.LegalSequencesNeverFault : Prop :=
  ∀ s : State, s.FAULT = false → s.mem.readable s.PTR (s.PTR + s.bytesLeft) →
    (s.CMD_VALID = true → s.presented.legal s.cfg s.mem) → (∀ u ∈ s.turns, u.legal s.cfg s.mem) →
    ∀ (n : Nat) (t : State), run n s = .next t → t.FAULT = false

/-- R119's bound: from any state of the invariant with BUSY at 1 and CORE moving alone (the model's form of weak
fairness: log 13, DEDUCED), BUSY becomes 0 within `floor((2^64-1)/W) + W - 1` beats, and a held command is still
presented then, to be accepted at once unless the UPDATE faulted. -/
def Obligations.EveryUpdateEnds : Prop :=
  ∀ s : State, s.Inv → s.BUSY = true → s.RESET = false → s.hostDone = true →
    ∃ n t, n ≤ (2 ^ 64 - 1) / s.cfg.W.bytes + s.cfg.W.bytes - 1 ∧ run n s = .next t ∧ t.BUSY = false ∧
      t.CMD_VALID = s.CMD_VALID ∧ t.presented = s.presented ∧
      (s.CMD_VALID = true → t.FAULT = false → t.accepting = true)

/-- No port ever shows the unspecified R and PTR of a faulted CORE (R152, R174): from a faulted state, whatever R and PTR
hold, every run (resets and commands after them among it) shows the same on the output ports. -/
def Obligations.FaultedRemainderIsNotObservable : Prop :=
  ∀ (n : Nat) (s : State) (r : Word32) (p : Nat), s.FAULT = true → s.BUSY = false →
    seen State.outputs (run n { s with R := r, PTR := p }) = seen State.outputs (run n s)

/-! ## The datapath -/

/-- Linearity (R111, which the spec marks as derived) of ByteStep and of WordStep, for both word widths. -/
def Obligations.FoldsAreLinear : Prop :=
  (∀ (r1 r2 : Word32) (b1 b2 : Byte), byteStep (r1 ^^^ r2) (b1 ^^^ b2) = byteStep r1 b1 ^^^ byteStep r2 b2) ∧
  (∀ (W : WordWidth) (r1 r2 : Word32) (d1 d2 : Word64),
    wordStep W (r1 ^^^ r2) (d1 ^^^ d2) = wordStep W r1 d1 ^^^ wordStep W r2 d2)

/-- The table form (R110, which the spec marks as derived), for every remainder and byte. -/
def Obligations.TableFormOfByteStep : Prop :=
  ∀ (r : Word32) (b : Byte), byteStep r b = (r >>> 8) ^^^ tableEntry ((r ^^^ b.setWidth 32).extractLsb' 0 8)

/-- The parallel form of the shifter (R105, which the spec marks as derived) equals WordStep for both word widths. -/
def Obligations.ParallelFormOfWordStep : Prop :=
  ∀ (W : WordWidth) (r : Word32) (d : Word64), wordStepParallel W r d = wordStep W r d

/-- The split into words and residue bytes folds as the bytes do (R107, which the spec marks as derived). -/
def Obligations.ChunkSplitEqualsByteFold : Prop :=
  ∀ (W : WordWidth) (r : Word32) (bs : List Byte), foldSplit W r bs = fold r bs

/-- The little-endian composition of R54: a read of `n` bytes has a value exactly when all are readable, and then the
composed word is the sum of byte `i` shifted left by `8i`. -/
def Obligations.MemReadComposesLittleEndian : Prop :=
  ∀ (m : Memory) (addr n : Nat), n ≤ 8 →
    ((∃ bs, m.readBytes addr n = .ok bs) ↔ m.readable addr (addr + n)) ∧
    ∀ bs, m.readBytes addr n = .ok bs →
      (composeLE bs).toNat = ∑ i ∈ Finset.range n, ((m.read (addr + i)).getD 0).toNat * 2 ^ (8 * i)

/-- The laws of the conditioned update (R109, whose consequences the spec marks as derived): the identity on the empty
buffer and incremental equivalence, for every split. -/
def Obligations.UpdateIsIncremental : Prop :=
  (∀ s : Word32, update s [] = s) ∧
  (∀ (s : Word32) (bs : List Byte) (k : Nat), k ≤ bs.length →
    update (update s (bs.take k)) (bs.drop k) = update s bs)

/-- The source's check value (95_test_vectors.md V1, S6; the polynomial is general knowledge, R101): the checksum of
"123456789", its raw fold from 0, and that reversing the bytes changes it. -/
def Obligations.CheckValue : Prop :=
  update 0 [0x31, 0x32, 0x33, 0x34, 0x35, 0x36, 0x37, 0x38, 0x39] = 0xE3069283 ∧
  fold 0 [0x31, 0x32, 0x33, 0x34, 0x35, 0x36, 0x37, 0x38, 0x39] = 0x58E3FA20 ∧
  update 0 [0x39, 0x38, 0x37, 0x36, 0x35, 0x34, 0x33, 0x32, 0x31] = 0xE46BD790

/-- R130's corner case read word for word: a zero byte changes R unless R is 0. Expected to FAIL: the spec's own ByteStep
has one nonzero remainder that a zero byte leaves as it is (NOTES.md). -/
def Obligations.ZeroByteChangesEveryNonzeroRemainder : Prop :=
  ∀ s t : State, exec (.byte 0) s = .next t → s.R ≠ 0 → t.R ≠ s.R

/-! ## Kept by every step -/

/-- R176's last paragraph (which the spec marks as derived) as an invariant: every step from a legal state that goes on
gives a legal state, host writes and resets among them. That a move which breaks a duty stops instead is the model's
choice (logs 10, 11, 21). -/
def Obligations.EveryStepKeepsLegalStatesLegal : Prop :=
  ∀ s t : State, s.Legal → step s = .next t → t.Legal

/-- R152 and R174 step by step: two faulted states that differ only in R and PTR take the same step. A reset makes them
equal; after any other step both are still faulted and differ only in R and PTR. -/
def Obligations.FaultedStatesStayEqualButForRAndPTR : Prop :=
  ∀ (s : State) (r : Word32) (p : Nat), s.FAULT = true → s.BUSY = false →
    (s.resetting = true → step { s with R := r, PTR := p } = step s) ∧
    (s.resetting = false →
      step { s with R := r, PTR := p } = seen (fun t => { t with R := r, PTR := p }) (step s) ∧
      ∀ t, step s = .next t → t.FAULT = true ∧ t.BUSY = false)
end

