-- ==== Sys2Proof/Laws/State.lean ====
section
/-! SUPPORT. Laws/State.lean: one lemma per field per update of the state, each true by rfl, so that no proof unfolds a
record update; and the derived flags after each update. -/

namespace Sys2Proof.Machine

variable (s : State)

/-! `raiseFault` -/

@[simp] theorem State.raiseFault_cfg (c : Cause) (v : Word64) : (s.raiseFault c v).cfg = s.cfg := rfl
@[simp] theorem State.raiseFault_R (c : Cause) (v : Word64) : (s.raiseFault c v).R = if c = .bus then Config.freeRemainder s.draws else s.R := rfl
@[simp] theorem State.raiseFault_RESULT (c : Cause) (v : Word64) : (s.raiseFault c v).RESULT = s.RESULT := rfl
@[simp] theorem State.raiseFault_FAULT (c : Cause) (v : Word64) : (s.raiseFault c v).FAULT = true := rfl
@[simp] theorem State.raiseFault_CAUSE (c : Cause) (v : Word64) : (s.raiseFault c v).CAUSE = c := rfl
@[simp] theorem State.raiseFault_FAULT_INFO (c : Cause) (v : Word64) : (s.raiseFault c v).FAULT_INFO = v := rfl
@[simp] theorem State.raiseFault_PTR (c : Cause) (v : Word64) : (s.raiseFault c v).PTR = Config.freePointer s.draws % (s.cfg.space + 1) := rfl
@[simp] theorem State.raiseFault_WORDS (c : Cause) (v : Word64) : (s.raiseFault c v).WORDS = 0 := rfl
@[simp] theorem State.raiseFault_BYTES (c : Cause) (v : Word64) : (s.raiseFault c v).BYTES = 0 := rfl
@[simp] theorem State.raiseFault_CMD_VALID (c : Cause) (v : Word64) : (s.raiseFault c v).CMD_VALID = s.CMD_VALID := rfl
@[simp] theorem State.raiseFault_CMD (c : Cause) (v : Word64) : (s.raiseFault c v).CMD = s.CMD := rfl
@[simp] theorem State.raiseFault_A (c : Cause) (v : Word64) : (s.raiseFault c v).A = s.A := rfl
@[simp] theorem State.raiseFault_B (c : Cause) (v : Word64) : (s.raiseFault c v).B = s.B := rfl
@[simp] theorem State.raiseFault_RESET (c : Cause) (v : Word64) : (s.raiseFault c v).RESET = s.RESET := rfl
@[simp] theorem State.raiseFault_mem (c : Cause) (v : Word64) : (s.raiseFault c v).mem = s.mem := rfl
@[simp] theorem State.raiseFault_turns (c : Cause) (v : Word64) : (s.raiseFault c v).turns = s.turns := rfl
@[simp] theorem State.raiseFault_draws (c : Cause) (v : Word64) : (s.raiseFault c v).draws = s.draws + 1 := rfl

/-! `resetStep` -/

@[simp] theorem State.resetStep_cfg : (s.resetStep).cfg = s.cfg := rfl
@[simp] theorem State.resetStep_R : (s.resetStep).R = K := rfl
@[simp] theorem State.resetStep_RESULT : (s.resetStep).RESULT = 0 := rfl
@[simp] theorem State.resetStep_FAULT : (s.resetStep).FAULT = false := rfl
@[simp] theorem State.resetStep_CAUSE : (s.resetStep).CAUSE = .none := rfl
@[simp] theorem State.resetStep_FAULT_INFO : (s.resetStep).FAULT_INFO = 0 := rfl
@[simp] theorem State.resetStep_PTR : (s.resetStep).PTR = 0 := rfl
@[simp] theorem State.resetStep_WORDS : (s.resetStep).WORDS = 0 := rfl
@[simp] theorem State.resetStep_BYTES : (s.resetStep).BYTES = 0 := rfl
@[simp] theorem State.resetStep_CMD_VALID : (s.resetStep).CMD_VALID = s.CMD_VALID := rfl
@[simp] theorem State.resetStep_CMD : (s.resetStep).CMD = s.CMD := rfl
@[simp] theorem State.resetStep_A : (s.resetStep).A = s.A := rfl
@[simp] theorem State.resetStep_B : (s.resetStep).B = s.B := rfl
@[simp] theorem State.resetStep_RESET : (s.resetStep).RESET = s.RESET := rfl
@[simp] theorem State.resetStep_mem : (s.resetStep).mem = s.mem := rfl
@[simp] theorem State.resetStep_turns : (s.resetStep).turns = s.turns := rfl
@[simp] theorem State.resetStep_draws : (s.resetStep).draws = s.draws := rfl

/-! `present` -/

@[simp] theorem State.present_cfg (c : Command) : (s.present c).cfg = s.cfg := rfl
@[simp] theorem State.present_R (c : Command) : (s.present c).R = s.R := rfl
@[simp] theorem State.present_RESULT (c : Command) : (s.present c).RESULT = s.RESULT := rfl
@[simp] theorem State.present_FAULT (c : Command) : (s.present c).FAULT = s.FAULT := rfl
@[simp] theorem State.present_CAUSE (c : Command) : (s.present c).CAUSE = s.CAUSE := rfl
@[simp] theorem State.present_FAULT_INFO (c : Command) : (s.present c).FAULT_INFO = s.FAULT_INFO := rfl
@[simp] theorem State.present_PTR (c : Command) : (s.present c).PTR = s.PTR := rfl
@[simp] theorem State.present_WORDS (c : Command) : (s.present c).WORDS = s.WORDS := rfl
@[simp] theorem State.present_BYTES (c : Command) : (s.present c).BYTES = s.BYTES := rfl
@[simp] theorem State.present_CMD_VALID (c : Command) : (s.present c).CMD_VALID = true := rfl
@[simp] theorem State.present_CMD (c : Command) : (s.present c).CMD = c.CMD := rfl
@[simp] theorem State.present_A (c : Command) : (s.present c).A = c.A := rfl
@[simp] theorem State.present_B (c : Command) : (s.present c).B = c.B := rfl
@[simp] theorem State.present_RESET (c : Command) : (s.present c).RESET = s.RESET := rfl
@[simp] theorem State.present_mem (c : Command) : (s.present c).mem = s.mem := rfl
@[simp] theorem State.present_turns (c : Command) : (s.present c).turns = s.turns := rfl
@[simp] theorem State.present_draws (c : Command) : (s.present c).draws = s.draws := rfl

/-! `consume` -/

@[simp] theorem State.consume_cfg : (s.consume).cfg = s.cfg := rfl
@[simp] theorem State.consume_R : (s.consume).R = s.R := rfl
@[simp] theorem State.consume_RESULT : (s.consume).RESULT = s.RESULT := rfl
@[simp] theorem State.consume_FAULT : (s.consume).FAULT = s.FAULT := rfl
@[simp] theorem State.consume_CAUSE : (s.consume).CAUSE = s.CAUSE := rfl
@[simp] theorem State.consume_FAULT_INFO : (s.consume).FAULT_INFO = s.FAULT_INFO := rfl
@[simp] theorem State.consume_PTR : (s.consume).PTR = s.PTR := rfl
@[simp] theorem State.consume_WORDS : (s.consume).WORDS = s.WORDS := rfl
@[simp] theorem State.consume_BYTES : (s.consume).BYTES = s.BYTES := rfl
@[simp] theorem State.consume_CMD_VALID : (s.consume).CMD_VALID = false := rfl
@[simp] theorem State.consume_CMD : (s.consume).CMD = s.CMD := rfl
@[simp] theorem State.consume_A : (s.consume).A = s.A := rfl
@[simp] theorem State.consume_B : (s.consume).B = s.B := rfl
@[simp] theorem State.consume_RESET : (s.consume).RESET = s.RESET := rfl
@[simp] theorem State.consume_mem : (s.consume).mem = s.mem := rfl
@[simp] theorem State.consume_turns : (s.consume).turns = s.turns := rfl
@[simp] theorem State.consume_draws : (s.consume).draws = s.draws := rfl

/-! `setR` -/

@[simp] theorem State.setR_cfg (v : Word32) : (s.setR v).cfg = s.cfg := rfl
@[simp] theorem State.setR_R (v : Word32) : (s.setR v).R = v := rfl
@[simp] theorem State.setR_RESULT (v : Word32) : (s.setR v).RESULT = s.RESULT := rfl
@[simp] theorem State.setR_FAULT (v : Word32) : (s.setR v).FAULT = s.FAULT := rfl
@[simp] theorem State.setR_CAUSE (v : Word32) : (s.setR v).CAUSE = s.CAUSE := rfl
@[simp] theorem State.setR_FAULT_INFO (v : Word32) : (s.setR v).FAULT_INFO = s.FAULT_INFO := rfl
@[simp] theorem State.setR_PTR (v : Word32) : (s.setR v).PTR = s.PTR := rfl
@[simp] theorem State.setR_WORDS (v : Word32) : (s.setR v).WORDS = s.WORDS := rfl
@[simp] theorem State.setR_BYTES (v : Word32) : (s.setR v).BYTES = s.BYTES := rfl
@[simp] theorem State.setR_CMD_VALID (v : Word32) : (s.setR v).CMD_VALID = s.CMD_VALID := rfl
@[simp] theorem State.setR_CMD (v : Word32) : (s.setR v).CMD = s.CMD := rfl
@[simp] theorem State.setR_A (v : Word32) : (s.setR v).A = s.A := rfl
@[simp] theorem State.setR_B (v : Word32) : (s.setR v).B = s.B := rfl
@[simp] theorem State.setR_RESET (v : Word32) : (s.setR v).RESET = s.RESET := rfl
@[simp] theorem State.setR_mem (v : Word32) : (s.setR v).mem = s.mem := rfl
@[simp] theorem State.setR_turns (v : Word32) : (s.setR v).turns = s.turns := rfl
@[simp] theorem State.setR_draws (v : Word32) : (s.setR v).draws = s.draws := rfl

/-! `setRESULT` -/

@[simp] theorem State.setRESULT_cfg (v : Word32) : (s.setRESULT v).cfg = s.cfg := rfl
@[simp] theorem State.setRESULT_R (v : Word32) : (s.setRESULT v).R = s.R := rfl
@[simp] theorem State.setRESULT_RESULT (v : Word32) : (s.setRESULT v).RESULT = v := rfl
@[simp] theorem State.setRESULT_FAULT (v : Word32) : (s.setRESULT v).FAULT = s.FAULT := rfl
@[simp] theorem State.setRESULT_CAUSE (v : Word32) : (s.setRESULT v).CAUSE = s.CAUSE := rfl
@[simp] theorem State.setRESULT_FAULT_INFO (v : Word32) : (s.setRESULT v).FAULT_INFO = s.FAULT_INFO := rfl
@[simp] theorem State.setRESULT_PTR (v : Word32) : (s.setRESULT v).PTR = s.PTR := rfl
@[simp] theorem State.setRESULT_WORDS (v : Word32) : (s.setRESULT v).WORDS = s.WORDS := rfl
@[simp] theorem State.setRESULT_BYTES (v : Word32) : (s.setRESULT v).BYTES = s.BYTES := rfl
@[simp] theorem State.setRESULT_CMD_VALID (v : Word32) : (s.setRESULT v).CMD_VALID = s.CMD_VALID := rfl
@[simp] theorem State.setRESULT_CMD (v : Word32) : (s.setRESULT v).CMD = s.CMD := rfl
@[simp] theorem State.setRESULT_A (v : Word32) : (s.setRESULT v).A = s.A := rfl
@[simp] theorem State.setRESULT_B (v : Word32) : (s.setRESULT v).B = s.B := rfl
@[simp] theorem State.setRESULT_RESET (v : Word32) : (s.setRESULT v).RESET = s.RESET := rfl
@[simp] theorem State.setRESULT_mem (v : Word32) : (s.setRESULT v).mem = s.mem := rfl
@[simp] theorem State.setRESULT_turns (v : Word32) : (s.setRESULT v).turns = s.turns := rfl
@[simp] theorem State.setRESULT_draws (v : Word32) : (s.setRESULT v).draws = s.draws := rfl

/-! `startSequencer` -/

@[simp] theorem State.startSequencer_cfg (base len : Nat) : (s.startSequencer base len).cfg = s.cfg := rfl
@[simp] theorem State.startSequencer_R (base len : Nat) : (s.startSequencer base len).R = s.R := rfl
@[simp] theorem State.startSequencer_RESULT (base len : Nat) : (s.startSequencer base len).RESULT = s.RESULT := rfl
@[simp] theorem State.startSequencer_FAULT (base len : Nat) : (s.startSequencer base len).FAULT = s.FAULT := rfl
@[simp] theorem State.startSequencer_CAUSE (base len : Nat) : (s.startSequencer base len).CAUSE = s.CAUSE := rfl
@[simp] theorem State.startSequencer_FAULT_INFO (base len : Nat) : (s.startSequencer base len).FAULT_INFO = s.FAULT_INFO := rfl
@[simp] theorem State.startSequencer_PTR (base len : Nat) : (s.startSequencer base len).PTR = base := rfl
@[simp] theorem State.startSequencer_WORDS (base len : Nat) : (s.startSequencer base len).WORDS = len / s.cfg.W.bytes := rfl
@[simp] theorem State.startSequencer_BYTES (base len : Nat) : (s.startSequencer base len).BYTES = len % s.cfg.W.bytes := rfl
@[simp] theorem State.startSequencer_CMD_VALID (base len : Nat) : (s.startSequencer base len).CMD_VALID = s.CMD_VALID := rfl
@[simp] theorem State.startSequencer_CMD (base len : Nat) : (s.startSequencer base len).CMD = s.CMD := rfl
@[simp] theorem State.startSequencer_A (base len : Nat) : (s.startSequencer base len).A = s.A := rfl
@[simp] theorem State.startSequencer_B (base len : Nat) : (s.startSequencer base len).B = s.B := rfl
@[simp] theorem State.startSequencer_RESET (base len : Nat) : (s.startSequencer base len).RESET = s.RESET := rfl
@[simp] theorem State.startSequencer_mem (base len : Nat) : (s.startSequencer base len).mem = s.mem := rfl
@[simp] theorem State.startSequencer_turns (base len : Nat) : (s.startSequencer base len).turns = s.turns := rfl
@[simp] theorem State.startSequencer_draws (base len : Nat) : (s.startSequencer base len).draws = s.draws := rfl

/-! `popTurn` -/

@[simp] theorem State.popTurn_cfg : (s.popTurn).cfg = s.cfg := rfl
@[simp] theorem State.popTurn_R : (s.popTurn).R = s.R := rfl
@[simp] theorem State.popTurn_RESULT : (s.popTurn).RESULT = s.RESULT := rfl
@[simp] theorem State.popTurn_FAULT : (s.popTurn).FAULT = s.FAULT := rfl
@[simp] theorem State.popTurn_CAUSE : (s.popTurn).CAUSE = s.CAUSE := rfl
@[simp] theorem State.popTurn_FAULT_INFO : (s.popTurn).FAULT_INFO = s.FAULT_INFO := rfl
@[simp] theorem State.popTurn_PTR : (s.popTurn).PTR = s.PTR := rfl
@[simp] theorem State.popTurn_WORDS : (s.popTurn).WORDS = s.WORDS := rfl
@[simp] theorem State.popTurn_BYTES : (s.popTurn).BYTES = s.BYTES := rfl
@[simp] theorem State.popTurn_CMD_VALID : (s.popTurn).CMD_VALID = s.CMD_VALID := rfl
@[simp] theorem State.popTurn_CMD : (s.popTurn).CMD = s.CMD := rfl
@[simp] theorem State.popTurn_A : (s.popTurn).A = s.A := rfl
@[simp] theorem State.popTurn_B : (s.popTurn).B = s.B := rfl
@[simp] theorem State.popTurn_RESET : (s.popTurn).RESET = s.RESET := rfl
@[simp] theorem State.popTurn_mem : (s.popTurn).mem = s.mem := rfl
@[simp] theorem State.popTurn_turns : (s.popTurn).turns = s.turns.tail := rfl
@[simp] theorem State.popTurn_draws : (s.popTurn).draws = s.draws := rfl

/-! The derived flags. -/

@[simp] theorem State.raiseFault_BUSY (c : Cause) (v : Word64) : (s.raiseFault c v).BUSY = false := rfl
@[simp] theorem State.raiseFault_READY (c : Cause) (v : Word64) : (s.raiseFault c v).READY = false := rfl
@[simp] theorem State.resetStep_BUSY : s.resetStep.BUSY = false := rfl
@[simp] theorem State.resetStep_READY : s.resetStep.READY = true := rfl
@[simp] theorem State.resetStep_STATUS : s.resetStep.STATUS = 0 := by
  rw [State.STATUS, State.resetStep_FAULT, State.resetStep_CAUSE, State.resetStep_BUSY]; decide
@[simp] theorem State.present_BUSY (c : Command) : (s.present c).BUSY = s.BUSY := rfl
@[simp] theorem State.present_STATUS (c : Command) : (s.present c).STATUS = s.STATUS := rfl
@[simp] theorem State.consume_BUSY : s.consume.BUSY = s.BUSY := rfl
@[simp] theorem State.consume_STATUS : s.consume.STATUS = s.STATUS := rfl
@[simp] theorem State.setR_BUSY (v : Word32) : (s.setR v).BUSY = s.BUSY := rfl
@[simp] theorem State.setR_STATUS (v : Word32) : (s.setR v).STATUS = s.STATUS := rfl
@[simp] theorem State.setRESULT_BUSY (v : Word32) : (s.setRESULT v).BUSY = s.BUSY := rfl
@[simp] theorem State.setRESULT_STATUS (v : Word32) : (s.setRESULT v).STATUS = s.STATUS := rfl
@[simp] theorem State.popTurn_BUSY : s.popTurn.BUSY = s.BUSY := rfl
@[simp] theorem State.popTurn_STATUS : s.popTurn.STATUS = s.STATUS := rfl

/-- BUSY is 0 exactly when both counts are 0. -/
theorem State.BUSY_eq_false_iff : s.BUSY = false ↔ s.WORDS = 0 ∧ s.BYTES = 0 := by
  simp [State.BUSY]

/-- READY is 1 exactly when BUSY and FAULT are both 0. -/
theorem State.READY_eq_true_iff : s.READY = true ↔ s.BUSY = false ∧ s.FAULT = false := by
  simp [State.READY]

end Sys2Proof.Machine

namespace Sys2Proof

/-- The word width is positive. -/
theorem WordWidth.bytes_pos (W : WordWidth) : 0 < W.bytes := by cases W <;> decide

/-- The word width is at most 8 bytes. -/
theorem WordWidth.bytes_le (W : WordWidth) : W.bytes ≤ 8 := by cases W <;> decide

end Sys2Proof
end

