-- ==== Sys2Proof/Laws/Datapath.lean ====
section
/-! SUPPORT. Laws/Datapath.lean: the shifter as a fold of the word's bytes, and the bytes of a composed word. -/

namespace Sys2Proof.Machine

/-- The fold of a concatenation is the fold of the second part from where the first ended. -/
theorem fold_append (r : Word32) (xs ys : List Byte) : fold r (xs ++ ys) = fold (fold r xs) ys := by
  induction xs generalizing r with
  | nil => rfl
  | cons x xs ih => exact ih _

/-- Byte 0 of a composed word is its first byte. -/
theorem byteOf_composeLE_zero (b : Byte) (bs : List Byte) : byteOf (composeLE (b :: bs)) 0 = b := by
  apply BitVec.eq_of_getLsbD_eq
  intro i hi
  simp [byteOf, composeLE, hi, show i < 64 by omega]

/-- Byte `i + 1` of a composed word is byte `i` of the word its tail composes. -/
theorem byteOf_composeLE_succ (b : Byte) (bs : List Byte) {i : Nat} (h : i < 7) :
    byteOf (composeLE (b :: bs)) (i + 1) = byteOf (composeLE bs) i := by
  apply BitVec.eq_of_getLsbD_eq
  intro j hj
  simp only [byteOf, composeLE, BitVec.getLsbD_extractLsb', BitVec.getLsbD_or, BitVec.getLsbD_setWidth,
    BitVec.getLsbD_shiftLeft, hj, decide_true, Bool.true_and]
  have h1 : 8 * (i + 1) + j < 64 := by omega
  have h2 : ¬ (8 * (i + 1) + j < 8) := by omega
  have h3 : 8 * (i + 1) + j - 8 = 8 * i + j := by omega
  have h4 : b.getLsbD (8 * (i + 1) + j) = false := BitVec.getLsbD_of_ge _ _ (by omega)
  simp [h1, h2, h3, h4]

/-- The loop of R104 over a composed word takes its bytes in order. -/
theorem foldl_byteOf_composeLE (bs : List Byte) (h : bs.length ≤ 8) (r : Word32) :
    (List.range bs.length).foldl (fun x i => byteStep x (byteOf (composeLE bs) i)) r = fold r bs := by
  induction bs generalizing r with
  | nil => rfl
  | cons b bs ih =>
    simp only [List.length_cons] at h
    rw [List.length_cons, List.range_succ_eq_map, List.foldl_cons, List.foldl_map, byteOf_composeLE_zero]
    rw [fold, ← ih (by omega)]
    apply List.foldl_ext
    intro x i hi
    rw [byteOf_composeLE_succ]
    have := List.mem_range.1 hi
    omega

/-- Folding the word that `W` bytes compose folds the bytes (R104 with 20_memory.md R54). -/
theorem wordStep_composeLE (W : WordWidth) (r : Word32) {bs : List Byte} (h : bs.length = W.bytes) :
    wordStep W r (composeLE bs) = fold r bs := by
  rw [wordStep, ← h]
  exact foldl_byteOf_composeLE bs (h ▸ WordWidth.bytes_le W) r

/-- The zero-extension of a byte composed alone. -/
theorem composeLE_singleton (b : Byte) : composeLE [b] = b.setWidth 64 := by
  simp [composeLE]

end Sys2Proof.Machine
end

