-- ==== Sys2Proof/Laws/Decode.lean ====
section
/-! SUPPORT. Laws/Decode.lean: the command words and what each of them decodes to. -/

namespace Sys2Proof

/-- Each command's word decodes to it (30_encoding.md R72). -/
theorem decodeOp_cmdWord (op : Op) : decodeOp op.cmdWord = .ok op := by
  cases op <;> decide

/-- A word whose reserved field is 0 is its command number. -/
theorem eq_ofNat_of_rsvField {c : Word32} (h : rsvField c = 0) : c = BitVec.ofNat 32 (opField c).toNat := by
  apply BitVec.eq_of_toNat_eq
  have hc := c.isLt
  have h0 : (rsvField c).toNat = 0 := by rw [h]; rfl
  simp only [rsvField, opField, BitVec.extractLsb'_toNat, BitVec.toNat_ofNat, Nat.shiftRight_eq_div_pow] at *
  omega

/-- The words that decode are the words of R72, each to its own command (R71). -/
theorem decodeOp_eq_ok {c : Word32} {op : Op} (h : decodeOp c = .ok op) : c = op.cmdWord := by
  simp only [decodeOp] at h
  split at h
  · rename_i hr
    have he := eq_ofNat_of_rsvField hr
    generalize (opField c).toNat = n at he h
    simp only [decodeOpField] at h
    split at h <;> cases h <;> exact he
  · cases h

/-- What a command decodes to comes from its word and its operand form (R71, R74). -/
theorem decode_eq_ok {W : WordWidth} {c : Command} {i : Instr} (h : decode W c = .ok i) :
    ∃ op, c.CMD = Op.cmdWord op ∧ i = Machine.assemble W op c.A c.B := by
  simp only [decode] at h
  split at h
  · rename_i op hop
    cases h
    exact ⟨op, decodeOp_eq_ok hop, rfl⟩
  · cases h

/-- A command with the word of `op` decodes to `op` with its assembled operands. -/
theorem decode_of_cmdWord (W : WordWidth) (op : Op) (a b : Word64) :
    decode W ⟨op.cmdWord, a, b⟩ = .ok (Machine.assemble W op a b) := by
  simp [decode, decodeOp_cmdWord]

namespace Machine

/-- The bits below `n`, one by one. -/
theorem getLsbD_lowBits (n i : Nat) : (lowBits n).getLsbD i = (decide (i < 64) && decide (i < n)) := by
  rw [lowBits, BitVec.getLsbD_ofNat, Nat.testBit_two_pow_sub_one]

/-- The low 32 bits of a zero-extended 32-bit value. -/
theorem operandA32_setWidth (v : Word32) : operandA32 (v.setWidth 64) = v := by
  apply BitVec.eq_of_getLsbD_eq
  intro i hi
  simp [operandA32, hi, show i < 64 by omega]

/-- The low 8 bits of a zero-extended byte. -/
theorem operandA8_setWidth (b : Byte) : operandA8 (b.setWidth 64) = b := by
  apply BitVec.eq_of_getLsbD_eq
  intro i hi
  simp [operandA8, hi, show i < 64 by omega]

/-- The command word's number of an assembled instruction. -/
theorem assemble_op (W : WordWidth) (op : Op) (a b : Word64) : (assemble W op a b).op = op := by
  cases op <;> rfl

end Machine

end Sys2Proof
end

