-- ==== Sys2Proof/Laws/Memory.lean ====
section
/-! SUPPORT. Laws/Memory.lean: the memory operations keep the canonical form; a byte read after a write; what a read of
several bytes answers. -/

namespace Sys2Proof.Machine

/-- The canonical form, read off the head: the rest is canonical and its addresses are above the head's. -/
theorem Memory.wf_cons (a : Nat) (v : Byte) (m : Memory) :
    Memory.wf ((a, v) :: m) = true ↔ Memory.wf m = true ∧ ∀ c ∈ m, a < c.1 := by
  induction m generalizing a v with
  | nil => simp [Memory.wf]
  | cons c m ih =>
    obtain ⟨b, w⟩ := c
    simp only [Memory.wf, Bool.and_eq_true, decide_eq_true_eq, List.mem_cons, forall_eq_or_imp]
    constructor
    · rintro ⟨hab, hm⟩
      exact ⟨hm, hab, fun c hc => hab.trans (((ih b w).1 hm).2 c hc)⟩
    · rintro ⟨hm, hab, -⟩
      exact ⟨hab, hm⟩

/-- Every address a write leaves in the list was there or is the address written. -/
theorem Memory.mem_place {m : Memory} {x : Nat} {v : Byte} {c : Host.Cell} (h : c ∈ m.place x v) :
    c ∈ m ∨ c = (x, v) := by
  induction m with
  | nil => simpa [Memory.place] using h
  | cons d m ih =>
    obtain ⟨a, w⟩ := d
    simp only [Memory.place] at h
    split at h
    · simp only [List.mem_cons] at h ⊢; tauto
    · split at h
      · simp only [List.mem_cons] at h ⊢; tauto
      · simp only [List.mem_cons] at h ⊢
        rcases h with h | h
        · tauto
        · rcases ih h with h | h <;> tauto

/-- Removing an address leaves only cells that were there. -/
theorem Memory.mem_remove {m : Memory} {x : Nat} {c : Host.Cell} (h : c ∈ m.remove x) : c ∈ m := by
  induction m with
  | nil => simp [Memory.remove] at h
  | cons d m ih =>
    obtain ⟨a, w⟩ := d
    simp only [Memory.remove] at h
    split at h
    · exact List.mem_cons_of_mem _ h
    · simp only [List.mem_cons] at h ⊢
      exact h.imp id ih

/-- A write keeps the canonical form. -/
theorem Memory.wf_place {m : Memory} (x : Nat) (v : Byte) (h : m.wf = true) : (m.place x v).wf = true := by
  induction m with
  | nil => rfl
  | cons d m ih =>
    obtain ⟨a, w⟩ := d
    obtain ⟨hm, ha⟩ := (Memory.wf_cons a w m).1 h
    simp only [Memory.place]
    split
    · rename_i hx
      refine (Memory.wf_cons _ _ _).2 ⟨h, ?_⟩
      simp only [List.mem_cons, forall_eq_or_imp]
      exact ⟨hx, fun c hc => hx.trans (ha c hc)⟩
    · split
      · rename_i hx; subst hx
        exact (Memory.wf_cons _ _ _).2 ⟨hm, ha⟩
      · refine (Memory.wf_cons _ _ _).2 ⟨ih hm, fun c hc => ?_⟩
        rcases Memory.mem_place hc with hc | rfl
        · exact ha c hc
        · simp only; omega

/-- Removing an address keeps the canonical form. -/
theorem Memory.wf_remove {m : Memory} (x : Nat) (h : m.wf = true) : (m.remove x).wf = true := by
  induction m with
  | nil => rfl
  | cons d m ih =>
    obtain ⟨a, w⟩ := d
    obtain ⟨hm, ha⟩ := (Memory.wf_cons a w m).1 h
    simp only [Memory.remove]
    split
    · exact hm
    · exact (Memory.wf_cons _ _ _).2 ⟨ih hm, fun c hc => ha c (Memory.mem_remove hc)⟩

/-- An address above which the list starts is not readable. -/
theorem Memory.read_eq_none_of_lt {m : Memory} {x : Nat} (h : ∀ c ∈ m, x < c.1) : m.read x = none := by
  induction m with
  | nil => rfl
  | cons d m ih =>
    obtain ⟨a, w⟩ := d
    have := h (a, w) (List.mem_cons_self ..)
    simp only [Memory.read]
    rw [if_neg (by simp only at this; omega)]
    exact ih fun c hc => h c (List.mem_cons_of_mem _ hc)

/-- A write reads back. -/
theorem Memory.read_place_same (m : Memory) (x : Nat) (v : Byte) : (m.place x v).read x = some v := by
  induction m with
  | nil => simp [Memory.place, Memory.read]
  | cons d m ih =>
    obtain ⟨a, w⟩ := d
    simp only [Memory.place]
    split
    · simp [Memory.read]
    · split
      · simp [Memory.read]
      · rename_i h; simp [Memory.read, ih, Ne.symm h]

/-- A write leaves every other address alone. -/
theorem Memory.read_place_other (m : Memory) {x y : Nat} (v : Byte) (h : y ≠ x) :
    (m.place x v).read y = m.read y := by
  induction m with
  | nil => simp [Memory.place, Memory.read, Ne.symm h]
  | cons d m ih =>
    obtain ⟨a, w⟩ := d
    simp only [Memory.place]
    split
    · simp [Memory.read, Ne.symm h]
    · split
      · rename_i hx; subst hx; simp [Memory.read, Ne.symm h]
      · simp only [Memory.read, ih]

/-- A removed address is not readable. -/
theorem Memory.read_remove_same {m : Memory} (x : Nat) (h : m.wf = true) : (m.remove x).read x = none := by
  induction m with
  | nil => rfl
  | cons d m ih =>
    obtain ⟨a, w⟩ := d
    obtain ⟨hm, ha⟩ := (Memory.wf_cons a w m).1 h
    simp only [Memory.remove]
    split
    · rename_i hx; subst hx; exact Memory.read_eq_none_of_lt ha
    · rename_i hx; simp [Memory.read, hx, ih hm]

/-- Removing an address leaves every other one alone. -/
theorem Memory.read_remove_other (m : Memory) {x y : Nat} (h : y ≠ x) : (m.remove x).read y = m.read y := by
  induction m with
  | nil => rfl
  | cons d m ih =>
    obtain ⟨a, w⟩ := d
    simp only [Memory.remove]
    split
    · rename_i hx; subst hx; simp [Memory.read, Ne.symm h]
    · simp only [Memory.read, ih]

/-- What a read of `n` bytes gives: `n` bytes, each the byte at its address. -/
theorem Memory.readBytes_ok {m : Memory} {n addr : Nat} {bs : List Byte}
    (h : m.readBytes addr n = .ok bs) : bs.length = n ∧ m.holds addr bs := by
  induction n generalizing addr bs with
  | zero =>
    simp only [Memory.readBytes, Except.ok.injEq] at h
    subst h
    exact ⟨rfl, fun i h => absurd h (Nat.not_lt_zero i)⟩
  | succ n ih =>
    simp only [Memory.readBytes] at h
    split at h
    · cases h
    · rename_i b hb
      split at h
      · cases h
      · rename_i cs hcs
        cases h
        obtain ⟨hl, hh⟩ := ih hcs
        refine ⟨by simp [hl], fun i hi => ?_⟩
        cases i with
        | zero => simpa using hb
        | succ i =>
          have := hh i (by simpa using hi)
          simpa [Nat.add_assoc, Nat.add_comm 1 i] using this

/-- Bytes that stand in memory are what a read of their number gives. -/
theorem Memory.readBytes_of_holds {m : Memory} {addr : Nat} {bs : List Byte} (h : m.holds addr bs) :
    m.readBytes addr bs.length = .ok bs := by
  induction bs generalizing addr with
  | nil => rfl
  | cons b bs ih =>
    have h0 : m.read addr = some b := h 0 (Nat.zero_lt_succ _)
    have h1 : m.holds (addr + 1) bs := fun i hi => by
      have := h (i + 1) (by simpa using hi)
      simpa [Nat.add_assoc, Nat.add_comm 1 i] using this
    simp [Memory.readBytes, h0, ih h1]

/-- Where a read of `n` bytes fails: at the lowest address of the `n` that is not readable. -/
theorem Memory.readBytes_error_iff {m : Memory} {n addr a : Nat} :
    m.readBytes addr n = .error a ↔
      addr ≤ a ∧ a < addr + n ∧ m.read a = none ∧ m.readable addr a := by
  induction n generalizing addr with
  | zero =>
    simp only [Memory.readBytes, reduceCtorEq, false_iff]
    rintro ⟨h1, h2, -⟩
    omega
  | succ n ih =>
    simp only [Memory.readBytes]
    cases hr : m.read addr with
    | none =>
      simp only [Except.error.injEq]
      constructor
      · rintro rfl
        exact ⟨le_refl _, by omega, hr, fun x h1 h2 => by omega⟩
      · rintro ⟨h1, -, -, h4⟩
        by_contra hne
        exact h4 addr (le_refl _) (by omega) hr
    | some b =>
      cases hb : m.readBytes (addr + 1) n with
      | error e =>
        have := ih (addr := addr + 1)
        simp only [hb, Except.error.injEq] at this ⊢
        rw [this]
        constructor
        · rintro ⟨h1, h2, h3, h4⟩
          refine ⟨by omega, by omega, h3, fun x hx1 hx2 => ?_⟩
          rcases Nat.eq_or_lt_of_le hx1 with rfl | hlt
          · simp [hr]
          · exact h4 x hlt hx2
        · rintro ⟨h1, h2, h3, h4⟩
          have hne : a ≠ addr := by rintro rfl; simp [hr] at h3
          exact ⟨by omega, by omega, h3, fun x hx1 hx2 => h4 x (by omega) hx2⟩
      | ok bs =>
        have := ih (addr := addr + 1)
        simp only [hb, reduceCtorEq, false_iff] at this ⊢
        rintro ⟨h1, h2, h3, h4⟩
        have hne : a ≠ addr := by rintro rfl; simp [hr] at h3
        exact this ⟨by omega, by omega, h3, fun x hx1 hx2 => h4 x (by omega) hx2⟩

end Sys2Proof.Machine
end

