-- ==== Sys2Proof/Laws/PerInstr.lean ====
section
/-! SUPPORT. Laws/PerInstr.lean: statements about every instruction as syntax, one lemma per constructor. -/

/-- An assembler writes the command's word and 0 into every operand bit that the command ignores (30_encoding.md R72,
R73, R77), for a well-formed instruction and either word width. -/
def Sys2Proof.Laws.IgnoredBitsZero.Statement (i : Sys2Proof.Instr) : Prop :=
  ∀ W : Sys2Proof.WordWidth, i.wellFormed W = true →
    (Sys2Proof.encode i).CMD = i.op.cmdWord ∧
    (Sys2Proof.encode i).A &&& Sys2Proof.Machine.usedA W i.op = (Sys2Proof.encode i).A ∧
    (Sys2Proof.encode i).B &&& Sys2Proof.Machine.usedB i.op = (Sys2Proof.encode i).B

namespace Sys2Proof.Laws.IgnoredBitsZero

open Sys2Proof Sys2Proof.Machine

/-- A value below `2^n` has no bit at or above `n`. -/
theorem and_lowBits {x : Word64} {n : Nat} (h : x.toNat < 2 ^ n) : x &&& lowBits n = x := by
  apply BitVec.eq_of_getLsbD_eq
  intro i hi
  rw [BitVec.getLsbD_and, getLsbD_lowBits]
  by_cases hn : i < n
  · simp [hi, hn]
  · have : x.getLsbD i = false :=
      Nat.testBit_lt_two_pow (lt_of_lt_of_le h (Nat.pow_le_pow_right (by decide) (Nat.le_of_not_lt hn)))
    simp [this]

/-- NOP reads no operand. -/
theorem nop : Statement .nop := fun _ _ => ⟨rfl, BitVec.and_self, BitVec.and_self⟩

/-- LOAD reads 32 bits of A. -/
theorem load (s : Word32) : Statement (.load s) := fun _ _ =>
  ⟨rfl, and_lowBits (by simpa [encode, Instr.portA] using Nat.mod_lt_of_lt s.isLt), BitVec.and_self⟩

/-- READ reads no operand. -/
theorem read : Statement .read := fun _ _ => ⟨rfl, BitVec.and_self, BitVec.and_self⟩

/-- BYTE reads 8 bits of A. -/
theorem byte (b : Byte) : Statement (.byte b) := fun _ _ =>
  ⟨rfl, and_lowBits (by simpa [encode, Instr.portA] using Nat.mod_lt_of_lt b.isLt), BitVec.and_self⟩

/-- WORD reads `8W` bits of A. -/
theorem word (d : Word64) : Statement (.word d) := fun _ h =>
  ⟨rfl, and_lowBits (by simpa [Instr.wellFormed, encode, Instr.portA] using h), BitVec.and_self⟩

/-- UPDATE reads all of A and B. -/
theorem update (base len : Word64) : Statement (.update base len) := fun _ _ =>
  ⟨rfl, and_lowBits base.isLt, and_lowBits len.isLt⟩

end Sys2Proof.Laws.IgnoredBitsZero
end

