-- ==== Sys2Proof/Laws/Step.lean ====
section
/-! SUPPORT. Laws/Step.lean: what a step can do, said once: one inversion lemma for each of exec, the beat, the accept
step, a host move, CORE's turn and the step, and the equations of a run. -/

namespace Sys2Proof.Machine

/-- Taking the turn off an empty list changes nothing. -/
theorem State.popTurn_of_nil {s : State} (h : s.turns = []) : s.popTurn = s := by
  cases s; cases h; rfl

/-- On CORE's turn the step is CORE's. -/
theorem step_of_coreTurn {s : State} (h : s.coreTurn = true) : step s = coreStep s.popTurn := by
  unfold step
  split
  · rename_i ht; rw [State.popTurn_of_nil ht]
  · rename_i ht; simp only [State.popTurn, ht, List.tail_cons]
  · rename_i ht; simp [State.coreTurn, ht] at h

/-- On the host's turn the step is its move. -/
theorem step_of_host {s : State} {m : HostMove} {rest : List Turn} (h : s.turns = .host m :: rest) :
    step s = hostMove m s.popTurn := by
  unfold step
  simp only [h, State.popTurn, List.tail_cons]

/-- A step is CORE's or the host's. -/
theorem step_cases (s : State) :
    (s.coreTurn = true ∧ step s = coreStep s.popTurn) ∨
    ∃ m rest, s.turns = .host m :: rest ∧ s.coreTurn = false ∧ step s = hostMove m s.popTurn := by
  rcases h : s.turns with _ | ⟨t, rest⟩
  · exact .inl ⟨by simp [State.coreTurn, h], step_of_coreTurn (by simp [State.coreTurn, h])⟩
  · cases t with
    | core => exact .inl ⟨by simp [State.coreTurn, h], step_of_coreTurn (by simp [State.coreTurn, h])⟩
    | host m => exact .inr ⟨m, rest, rfl, by simp [State.coreTurn, h], step_of_host h⟩

/-- Everything a command can do (R120 to R122, R130, R131, R140 to R142). -/
theorem exec_cases {i : Instr} {s t : State} (h : exec i s = .next t) :
    (i = .nop ∧ t = s) ∨
    (∃ v, i = .load v ∧ t = s.setR (v ^^^ K)) ∨
    (i = .read ∧ t = s.setRESULT (s.R ^^^ K)) ∨
    (∃ b, i = .byte b ∧ t = s.setR (byteStep s.R b)) ∨
    (∃ d, i = .word d ∧ t = s.setR (wordStep s.cfg.W s.R d)) ∨
    (∃ base, i = .update base 0 ∧ t = s) ∨
    (∃ base len, i = .update base len ∧ len ≠ 0 ∧ base.toNat + len.toNat > s.cfg.space ∧
      t = s.raiseFault .range base) ∨
    (∃ base len, i = .update base len ∧ len ≠ 0 ∧ base.toNat + len.toNat ≤ s.cfg.space ∧
      t = s.startSequencer base.toNat len.toNat) := by
  cases i with
  | nop => cases h; exact .inl ⟨rfl, rfl⟩
  | load v => cases h; exact .inr (.inl ⟨v, rfl, rfl⟩)
  | read => cases h; exact .inr (.inr (.inl ⟨rfl, rfl⟩))
  | byte b => cases h; exact .inr (.inr (.inr (.inl ⟨b, rfl, rfl⟩)))
  | word d => cases h; exact .inr (.inr (.inr (.inr (.inl ⟨d, rfl, rfl⟩))))
  | update base len =>
    simp only [exec, execUpdate] at h
    split at h
    · rename_i hl; cases h; subst hl
      exact .inr (.inr (.inr (.inr (.inr (.inl ⟨base, rfl, rfl⟩)))))
    · split at h
      · rename_i hl hr; cases h
        exact .inr (.inr (.inr (.inr (.inr (.inr (.inl ⟨base, len, rfl, hl, hr, rfl⟩))))))
      · rename_i hl hr; cases h
        exact .inr (.inr (.inr (.inr (.inr (.inr (.inr ⟨base, len, rfl, hl, Nat.le_of_not_gt hr, rfl⟩))))))

/-- Everything a beat can do (R146): a word folded, a byte folded, or BUS with the lowest unreadable address it
needs. -/
theorem beat_cases {s t : State} (h : beat s = .next t) :
    (0 < s.WORDS ∧ ∃ bs, s.mem.readBytes s.PTR s.cfg.W.bytes = .ok bs ∧
      t = { s with R := wordStep s.cfg.W s.R (composeLE bs), PTR := s.PTR + s.cfg.W.bytes, WORDS := s.WORDS - 1 }) ∨
    (s.WORDS = 0 ∧ ∃ b, s.mem.read s.PTR = some b ∧
      t = { s with R := byteStep s.R b, PTR := s.PTR + 1, BYTES := s.BYTES - 1 }) ∨
    (0 < s.WORDS ∧ ∃ a, s.mem.readBytes s.PTR s.cfg.W.bytes = .error a ∧
      t = s.raiseFault .bus (BitVec.ofNat 64 a)) ∨
    (s.WORDS = 0 ∧ s.mem.read s.PTR = none ∧ t = s.raiseFault .bus (BitVec.ofNat 64 s.PTR)) := by
  simp only [beat, wordBeat, byteBeat] at h
  split at h
  · rename_i hw
    split at h
    · rename_i a ha; cases h; exact .inr (.inr (.inl ⟨hw, a, ha, rfl⟩))
    · rename_i bs hbs; cases h; exact .inl ⟨hw, bs, hbs, rfl⟩
  · rename_i hw
    have hw0 : s.WORDS = 0 := by omega
    split at h
    · rename_i hr; cases h; exact .inr (.inr (.inr ⟨hw0, hr, rfl⟩))
    · rename_i b hb; cases h; exact .inr (.inl ⟨hw0, b, hb, rfl⟩)

/-- Everything the accept step can do (R119). -/
theorem accept_cases {s t : State} (h : accept s = .next t) :
    (∃ e, decode s.cfg.W s.presented = .error e ∧ t = s.consume.raiseFault .illegalCmd (s.CMD.setWidth 64)) ∨
    ∃ i, decode s.cfg.W s.presented = .ok i ∧ exec i s.consume = .next t := by
  simp only [accept] at h
  split at h
  · rename_i e he; cases h; exact .inl ⟨e, he, rfl⟩
  · rename_i i hi; exact .inr ⟨i, hi, h⟩

/-- Everything CORE's turn can do. -/
theorem coreStep_cases {s t : State} (h : coreStep s = .next t) :
    (s.RESET = true ∧ t = s.resetStep) ∨
    (s.RESET = false ∧ s.FAULT = true ∧ t = s) ∨
    (s.RESET = false ∧ s.FAULT = false ∧ s.BUSY = true ∧ beat s = .next t) ∨
    (s.RESET = false ∧ s.FAULT = false ∧ s.BUSY = false ∧ s.CMD_VALID = true ∧ accept s = .next t) ∨
    (s.RESET = false ∧ s.FAULT = false ∧ s.BUSY = false ∧ s.CMD_VALID = false ∧ t = s) := by
  unfold coreStep at h
  split at h
  · rename_i hr; cases h; exact .inl ⟨hr, rfl⟩
  · rename_i hr; rw [Bool.not_eq_true] at hr
    split at h
    · rename_i hf; cases h; exact .inr (.inl ⟨hr, hf, rfl⟩)
    · rename_i hf; rw [Bool.not_eq_true] at hf
      split at h
      · rename_i hb; exact .inr (.inr (.inl ⟨hr, hf, hb, h⟩))
      · rename_i hb; rw [Bool.not_eq_true] at hb
        split at h
        · rename_i hv; exact .inr (.inr (.inr (.inl ⟨hr, hf, hb, hv, h⟩)))
        · rename_i hv; rw [Bool.not_eq_true] at hv; cases h
          exact .inr (.inr (.inr (.inr ⟨hr, hf, hb, hv, rfl⟩)))

/-- Everything a host move can do when it is one of the moves the spec gives the host (R209). -/
theorem hostMove_cases {m : HostMove} {s t : State} (h : hostMove m s = .next t) :
    (∃ c, m = .present c ∧ (s.CMD_VALID = true → s.presented = c) ∧ t = s.present c) ∨
    (∃ level, m = .driveReset level ∧ t = { s with RESET := level }) ∨
    (m = .pulseReset ∧ t = s.resetStep) ∨
    (∃ a v, m = .placeByte a v ∧ s.BUSY = false ∧ a < s.cfg.space ∧ t = { s with mem := s.mem.place a v }) ∨
    (∃ a, m = .removeByte a ∧ s.BUSY = false ∧ a < s.cfg.space ∧ t = { s with mem := s.mem.remove a }) := by
  cases m with
  | present c =>
    simp only [hostMove, presentCommand] at h
    split at h
    · cases h
    · rename_i hc; cases h
      exact .inl ⟨c, rfl, by simpa using hc, rfl⟩
  | driveReset level => cases h; exact .inr (.inl ⟨level, rfl, rfl⟩)
  | pulseReset => cases h; exact .inr (.inr (.inl ⟨rfl, rfl⟩))
  | placeByte a v =>
    simp only [hostMove, changeMemory] at h
    split at h
    · cases h
    · rename_i hb; rw [Bool.not_eq_true] at hb
      split at h
      · rename_i ha; cases h; exact .inr (.inr (.inr (.inl ⟨a, v, rfl, hb, ha, rfl⟩)))
      · cases h
  | removeByte a =>
    simp only [hostMove, changeMemory] at h
    split at h
    · cases h
    · rename_i hb; rw [Bool.not_eq_true] at hb
      split at h
      · rename_i ha; cases h; exact .inr (.inr (.inr (.inr ⟨a, rfl, hb, ha, rfl⟩)))
      · cases h

/-- A run of no steps. -/
theorem run_zero (s : State) : run 0 s = .next s := rfl

/-- A run whose first step goes on. -/
theorem run_succ_of_next {k : Nat} {s t : State} (h : step s = .next t) : run (k + 1) s = run k t := by
  simp only [run, h]

/-- A run that went on for `k` steps goes on from there. -/
theorem run_add_of_next {k n : Nat} {s t : State} (h : run k s = .next t) : run (k + n) s = run n t := by
  induction k generalizing s with
  | zero => cases h; rw [Nat.zero_add]
  | succ k ih =>
    rw [Nat.add_right_comm]
    simp only [run] at h ⊢
    split at h
    · rename_i u hu; exact ih h
    · cases h
    · cases h

/-- A property that every step keeps holds after a run. -/
theorem run_keeps {P : State → Prop} (hstep : ∀ s t, P s → step s = .next t → P t) {k : Nat} {s t : State}
    (hs : P s) (h : run k s = .next t) : P t := by
  induction k generalizing s with
  | zero => cases h; exact hs
  | succ k ih =>
    simp only [run] at h
    split at h
    · rename_i u hu; exact ih (hstep _ _ hs hu) h
    · cases h
    · cases h

end Sys2Proof.Machine
end

