-- ==== Sys2Proof/Tests/Slice0.lean ====
section
/-! SUPPORT. Tests/Slice0.lean: the WellFormed smoke, words written out bit by bit, single steps against
spec/95_test_vectors.md (V<n>), and a witness for the hypotheses of every statement that has some (for each of its
clauses, at the ends of the ranges). Every expected value is the spec's. -/

namespace Sys2Proof.Tests

open Sys2Proof Sys2Proof.Machine

/- The theorems are many and small: elaborated one after another they need no thread of their own each. -/
set_option Elab.async false

/-! ## Helpers -/

/-- A field of the next state, none at a stop. -/
def fieldOf {α : Type} (f : State → α) : Host.Outcome State Fault Refusal → Option α
  | .next t => some (f t)
  | .fault _ => none
  | .refused _ => none

/-- Bytes at consecutive addresses. -/
def bytesAt : Nat → List Byte → Memory
  | _, [] => []
  | a, b :: bs => (a, b) :: bytesAt (a + 1) bs

/-- "123456789". -/
def digits : List Byte := [0x31, 0x32, 0x33, 0x34, 0x35, 0x36, 0x37, 0x38, 0x39]

/-- The shared memory of the programs of 95_test_vectors.md: "123456789" at 0x1000, zeros up to 0x100F. -/
def sharedMem : Memory := bytesAt 0x1000 (digits ++ [0, 0, 0, 0, 0, 0, 0])

/-- The start state of the programs, for a word width and `AW = aw + 1`. -/
def start (W : WordWidth) (aw : Fin 64) : State :=
  { State.reset with cfg := { W := W, aw := aw }, mem := sharedMem }

/-- The same, with a command presented. -/
def offered (W : WordWidth) (aw : Fin 64) (cmd : Word32) (a b : Word64) : State :=
  (start W aw).present { CMD := cmd, A := a, B := b }

/-- The start state with the sequencer at `ptr`. -/
def inFlight (W : WordWidth) (ptr words bytes : Nat) : State :=
  { start W 63 with PTR := ptr, WORDS := words, BYTES := bytes }

/-- A faulted state with a command presented behind it. -/
def faulted (turns : List Turn) : State :=
  { offered .w8 63 2 0 0 with FAULT := true, CAUSE := .illegalCmd, FAULT_INFO := 0x11, turns := turns }

/-! ## WellFormed -/

/-- R77: the assembler rejects a literal of 33 bits where `W = 4`, and takes one of 32. -/
theorem test_wellFormed_word_w4 :
    (Instr.word 0x100000000).wellFormed .w4 = false ∧ (Instr.word 0xFFFFFFFF).wellFormed .w4 = true := by decide

theorem test_wellFormed_word_w8 : (Instr.word 0xFFFFFFFFFFFFFFFF).wellFormed .w8 = true := by decide

/-! ## Decoding: words from R72, bit by bit -/

theorem test_decode_nop : decode .w8 ⟨0b00000000000000000000000000000000, 0x5, 0x6⟩ = .ok .nop := by rfl

theorem test_decode_load :
    decode .w8 ⟨0b00000000000000000000000000000001, 0xFFFFFFFFABCDEF01, 0x6⟩ = .ok (.load 0xABCDEF01) := by rfl

theorem test_decode_read : decode .w8 ⟨0b00000000000000000000000000000010, 0x5, 0x6⟩ = .ok .read := by rfl

theorem test_decode_byte :
    decode .w8 ⟨0b00000000000000000000000000000011, 0xFFFFFFFFFFFFFF31, 0x6⟩ = .ok (.byte 0x31) := by rfl

theorem test_decode_word_w4 :
    decode .w4 ⟨0b00000000000000000000000000000100, 0x3837363534333231, 0x6⟩ = .ok (.word 0x34333231) := by rfl

theorem test_decode_word_w8 :
    decode .w8 ⟨0b00000000000000000000000000000100, 0x3837363534333231, 0x6⟩ =
      .ok (.word 0x3837363534333231) := by rfl

theorem test_decode_update :
    decode .w4 ⟨0b00000000000000000000000000000101, 0x1000, 0x9⟩ = .ok (.update 0x1000 0x9) := by rfl

/-- V20's six illegal words. -/
theorem test_decode_illegal :
    decode .w8 ⟨0b00000000000000000000000000000110, 0, 0⟩ = .error .unassignedOp ∧
    decode .w8 ⟨0b00000000000000000000000000001111, 0, 0⟩ = .error .unassignedOp ∧
    decode .w8 ⟨0b00000000000000000000000000010000, 0, 0⟩ = .error .reservedBitsSet ∧
    decode .w8 ⟨0b00000000000000000000000000010001, 0, 0⟩ = .error .reservedBitsSet ∧
    decode .w8 ⟨0b10000000000000000000000000000001, 0, 0⟩ = .error .reservedBitsSet ∧
    decode .w8 ⟨0b11111111111111111111111111111111, 0, 0⟩ = .error .reservedBitsSet :=
  ⟨rfl, rfl, rfl, rfl, rfl, rfl⟩

/-- The words of the opcode table, and two that are none. -/
theorem test_decodeTableWord :
    decodeTableWord 32 0 = some .nop ∧ decodeTableWord 32 1 = some (.load 0) ∧ decodeTableWord 32 2 = some .read ∧
    decodeTableWord 32 3 = some (.byte 0) ∧ decodeTableWord 32 4 = some (.word 0) ∧
    decodeTableWord 32 5 = some (.update 0 0) ∧ decodeTableWord 32 6 = none ∧ decodeTableWord 32 0x10 = none := by
  decide

/-- R78. -/
theorem test_pseudo_checksum :
    (Pseudo.checksum 0 0x1000 9).expand.map encode = [⟨1, 0, 0⟩, ⟨5, 0x1000, 9⟩, ⟨2, 0, 0⟩] := by decide

/-! ## The datapath -/

/-- V2. -/
theorem test_bitStep : bitStep 0 = 0 ∧ bitStep 1 = 0x82F63B78 ∧ bitStep 2 = 1 := by decide

/-- V3. -/
theorem test_byteStep :
    byteStep 0 0x01 = 0xF26B8303 ∧ byteStep 0 0x80 = 0x82F63B78 ∧ byteStep 0 0xFF = 0xAD7D5351 ∧
    byteStep 1 0x00 = 0xF26B8303 ∧ byteStep 0xFFFFFFFF 0xFF = 0x00FFFFFF ∧
    byteStep 0xFFFFFFFF 0x31 = 0x6F0A661C := by decide +kernel

/-- V4 and V5. -/
theorem test_wordStep :
    wordStep .w4 1 0 = 0xDD45AAB8 ∧ wordStep .w4 0x09C50B11 0x38373635 = 0x9F787F65 ∧
    wordStep .w8 1 0 = 0x493C7D27 ∧ wordStep .w8 0xFFFFFFFF 0xFFFFFFFFFFFFFFFF = 0xB798B438 ∧
    wordStepParallel .w8 0xFFFFFFFF 0x3837363534333231 = 0x9F787F65 := by decide +kernel

/-- V6. -/
theorem test_update_fold :
    update 0x12345678 [] = 0x12345678 ∧ update 0xF63AF4EE [0x35, 0x36, 0x37, 0x38, 0x39] = 0xE3069283 ∧
    update 0 [0x61] = 0xC1D04330 ∧ update 0xFFFFFFFF digits = 0xA71C05DF := by decide +kernel

/-- R54: the byte at the lowest address is the low byte. -/
theorem test_composeLE : composeLE [0x31, 0x32, 0x33, 0x34] = 0x34333231 := by decide

/-! ## Single steps of the commands -/

/-- V7. -/
theorem test_nop :
    fieldOf (fun t => (t.R, t.STATUS)) (exec .nop { State.reset with R := 0xEDCBA987 }) =
      some (0xEDCBA987, 0) := by decide

/-- V8, with the ignored high bits set. -/
theorem test_load :
    fieldOf (fun t => (t.R, t.CMD_VALID)) (step (offered .w8 63 1 0xFFFFFFFFABCDEF01 0)) =
      some (0x543210FE, false) := by decide

/-- V9. -/
theorem test_read :
    fieldOf (fun t => (t.R, t.RESULT)) (exec .read { State.reset with R := 0xEDCBA987 }) =
      some (0xEDCBA987, 0x12345678) := by decide

/-- V10, with the ignored high bits set. -/
theorem test_byte :
    fieldOf State.R (step (offered .w8 63 3 0xFFFFFFFFFFFFFF31 0)) = some 0x6F0A661C := by decide +kernel

/-- V11: the high half is ignored when `W = 4`. -/
theorem test_word_w4 :
    fieldOf State.R (step (offered .w4 63 4 0x3837363534333231 0)) = some 0x09C50B11 := by decide +kernel

/-- V11. -/
theorem test_word_w8 :
    fieldOf State.R (step (offered .w8 63 4 0x3837363534333231 0)) = some 0x9F787F65 := by decide +kernel

/-- P1, `W = 8`: what the accept step sets. -/
theorem test_update_accept :
    fieldOf (fun t => (t.PTR, t.WORDS, t.BYTES, t.STATUS)) (step (offered .w8 63 5 0x1000 9)) =
      some (0x1000, 1, 1, 0x00000001) := by decide

/-- V21 and V18: one byte over the top of the space is RANGE, the byte below it is not. -/
theorem test_update_range :
    fieldOf (fun t => (t.STATUS, t.FAULT_INFO)) (step (offered .w8 63 5 0xFFFFFFFFFFFFFFF8 9)) =
      some (0x00000022, 0xFFFFFFFFFFFFFFF8) ∧
    fieldOf (fun t => (t.STATUS, t.FAULT_INFO)) (step (offered .w8 63 5 0xFFFFFFFFFFFFFFF7 9)) =
      some (0x00000001, 0) := by decide

/-- V16, `AW = 16`: a zero length past the top raises nothing. -/
theorem test_update_zero :
    fieldOf (fun t => (t.STATUS, t.PTR)) (step (offered .w8 15 5 0x10000 0)) = some (0, 0) := by decide

/-- P1, `W = 8`: the word beat. -/
theorem test_word_beat :
    fieldOf (fun t => (t.R, t.PTR, t.WORDS, t.BYTES)) (step (inFlight .w8 0x1000 1 1)) =
      some (0x9F787F65, 0x1008, 0, 1) := by decide +kernel

/-- P1: the byte beat, after which STATUS is 0. -/
theorem test_byte_beat :
    fieldOf (fun t => (t.R, t.PTR, t.STATUS)) (step { inFlight .w8 0x1008 0 1 with R := 0x9F787F65 }) =
      some (0x1CF96D7C, 0x1009, 0) := by decide +kernel

/-- V22: the first beat of `W = 8` and the second of `W = 4` fault at 0x1010. -/
theorem test_bus :
    fieldOf (fun t => (t.STATUS, t.FAULT_INFO)) (step (inFlight .w8 0x100C 1 0)) = some (0x00000032, 0x1010) ∧
    fieldOf (fun t => (t.STATUS, t.FAULT_INFO)) (step (inFlight .w4 0x1010 1 0)) = some (0x00000032, 0x1010) := by
  decide

/-- V20. -/
theorem test_illegal :
    fieldOf (fun t => (t.STATUS, t.FAULT_INFO, t.R)) (step (offered .w8 63 0x11 0 0)) =
      some (0x00000012, 0x11, 0xFFFFFFFF) := by decide

/-- V23: a READ presented during an UPDATE holds. -/
theorem test_hold :
    fieldOf (fun t => (t.CMD_VALID, t.RESULT)) (step ((inFlight .w8 0x1000 1 1).present ⟨2, 0, 0⟩)) =
      some (true, 0) := by decide +kernel

/-- V24. -/
theorem test_reset_after_fault :
    fieldOf (fun t => (t.R, t.STATUS, t.FAULT_INFO, t.READY)) (step (faulted [.host .pulseReset])) =
      some (0xFFFFFFFF, 0, 0, true) := by decide

/-- The opcode table's word for BYTE runs as the first instruction after reset (V10: a zero byte). -/
theorem test_withFetchWord :
    fieldOf (fun t => (t.R, t.CMD_VALID)) (step (State.reset.withFetchWord 32 3)) = some (0xAD82ACAE, false) := by
  decide +kernel

/-! ## Witnesses: memory and invariant -/

/-- A readable address is in the list. -/
theorem mem_of_read {m : Memory} {a : Nat} (h : m.read a ≠ none) : a ∈ m.map Prod.fst := by
  induction m with
  | nil => exact absurd rfl h
  | cons c m ih =>
    obtain ⟨b, v⟩ := c
    rw [List.map_cons, List.mem_cons]
    rw [Memory.read] at h
    by_cases hb : b = a
    · exact .inl hb.symm
    · rw [if_neg hb] at h; exact .inr (ih h)

/-- Bytes that a read gives are readable. -/
theorem readable_of_readBytes {m : Memory} {lo n : Nat} {bs : List Byte} (h : m.readBytes lo n = .ok bs) :
    m.readable lo (lo + n) := by
  obtain ⟨hl, hh⟩ := Memory.readBytes_ok h
  intro a h1 h2
  have := hh (a - lo) (by omega)
  rw [show lo + (a - lo) = a by omega] at this
  rw [this]; exact Option.some_ne_none _

/-- The buffer of P1 holds "123456789". -/
theorem sharedMem_holds : sharedMem.holds 0x1000 digits := (Memory.readBytes_ok (n := 9) rfl).2

/-- The buffer of P1 is readable. -/
theorem sharedMem_readable : sharedMem.readable 0x1000 (0x1000 + 9) := readable_of_readBytes (bs := digits) rfl

/-- Every listed address of the shared memory exists. -/
theorem sharedMem_inSpace (a : Nat) (h : sharedMem.read a ≠ none) : a < 2 ^ 64 := by
  have hall : ∀ x ∈ sharedMem.map Prod.fst, x < 2 ^ 64 := by decide
  exact hall a (mem_of_read h)

/-- A state with an UPDATE in flight that has the invariant. -/
theorem inFlight_inv : (inFlight .w8 0x1000 1 1).Inv where
  memCanonical := by decide
  memInSpace := sharedMem_inSpace
  inSpace := by decide
  wordsRange := by decide
  bytesRange := by decide
  causeIffFault := by decide
  faultIdle := by decide

/-! ## Witnesses: encoding and the accept step -/

theorem witness_DecodeOfEncode : (Instr.word 0xFFFFFFFF).wellFormed .w4 = true := by decide

theorem witness_EncodeOfDecode :
    decode .w4 ⟨4, 0xFFFFFFFFFFFFFFFF, 0xFFFFFFFFFFFFFFFF⟩ = .ok (.word 0xFFFFFFFF) := by rfl

theorem witness_EveryOtherWordIsIllegal :
    (0x80000000 : Word32).extractLsb' 4 28 ≠ 0 ∧ (0x00000010 : Word32).extractLsb' 4 28 ≠ 0 ∧
    (offered .w8 63 6 0 0).accepting = true ∧ 6 ≤ (offered .w8 63 6 0 0).CMD.toNat := by decide

theorem witness_IgnoredOperandBits :
    (offered .w4 63 4 0 0).coreTurn = true ∧ decodeOp (offered .w4 63 4 0 0).CMD = .ok .word ∧
    (offered .w4 63 4 0 0).A &&& usedA .w4 .word = 0xFFFFFFFF00000000 &&& usedA .w4 .word ∧
    (offered .w4 63 4 0 0).B &&& usedB .word = 0xFFFFFFFFFFFFFFFF &&& usedB .word :=
  ⟨rfl, rfl, by decide, by decide⟩

theorem witness_StepRuns :
    (offered .w4 63 4 0x3837363534333231 0).coreTurn = true ∧ (offered .w4 63 4 0x3837363534333231 0).RESET = false ∧
    (offered .w4 63 4 0x3837363534333231 0).READY = true ∧ (offered .w4 63 4 0x3837363534333231 0).CMD_VALID = true ∧
    decode .w4 (offered .w4 63 4 0x3837363534333231 0).presented = .ok (.word 0x34333231) :=
  ⟨rfl, rfl, rfl, rfl, rfl⟩

/-- Either ground of an illegal word, at the ends of its range. -/
theorem witness_IllegalCommandFaults :
    (offered .w8 63 0x6 0 0).accepting = true ∧ 6 ≤ ((0x6 : Word32).extractLsb' 0 4).toNat ∧
    (offered .w8 63 0xF 0 0).accepting = true ∧ 6 ≤ ((0xF : Word32).extractLsb' 0 4).toNat ∧
    (offered .w8 63 0x10 0 0).accepting = true ∧ (0x10 : Word32).extractLsb' 4 28 ≠ 0 ∧
    (offered .w8 63 0xFFFFFFFF 0 0).accepting = true ∧ (0xFFFFFFFF : Word32).extractLsb' 4 28 ≠ 0 := by decide

theorem witness_CommandsAreTaken :
    ∃ t, step (offered .w8 63 0 0 0) = .next t ∧ (offered .w8 63 0 0 0).CMD_VALID = true ∧ t.CMD_VALID = false :=
  ⟨_, rfl, rfl, rfl⟩

theorem witness_CommandIsHeld :
    ((inFlight .w8 0x1000 1 1).present ⟨2, 0, 0⟩).coreTurn = true ∧
    ((inFlight .w8 0x1000 1 1).present ⟨2, 0, 0⟩).RESET = false ∧
    ((inFlight .w8 0x1000 1 1).present ⟨2, 0, 0⟩).BUSY = true ∧
    ((inFlight .w8 0x1000 1 1).present ⟨2, 0, 0⟩).FAULT = false := by decide

/-! ## Witnesses: the commands -/

theorem witness_NopIsHeld :
    ((inFlight .w8 0x1000 0 1).present ⟨0, 0, 0⟩).coreTurn = true ∧
    ((inFlight .w8 0x1000 0 1).present ⟨0, 0, 0⟩).RESET = false ∧
    ((inFlight .w8 0x1000 0 1).present ⟨0, 0, 0⟩).FAULT = false ∧
    ((inFlight .w8 0x1000 0 1).present ⟨0, 0, 0⟩).BUSY = true ∧
    ((inFlight .w8 0x1000 0 1).present ⟨0, 0, 0⟩).CMD_VALID = true ∧
    ((inFlight .w8 0x1000 0 1).present ⟨0, 0, 0⟩).CMD = 0x00000000 := by decide

theorem witness_ReadTwice :
    ∃ t u, exec .read { State.reset with R := 0xEDCBA987 } = .next t ∧ exec .read t = .next u :=
  ⟨_, _, rfl, rfl⟩

theorem witness_ReadIsHeld :
    ((inFlight .w8 0x1000 1 0).present ⟨2, 0, 0⟩).coreTurn = true ∧
    ((inFlight .w8 0x1000 1 0).present ⟨2, 0, 0⟩).RESET = false ∧
    ((inFlight .w8 0x1000 1 0).present ⟨2, 0, 0⟩).FAULT = false ∧
    ((inFlight .w8 0x1000 1 0).present ⟨2, 0, 0⟩).BUSY = true ∧
    ((inFlight .w8 0x1000 1 0).present ⟨2, 0, 0⟩).CMD_VALID = true ∧
    ((inFlight .w8 0x1000 1 0).present ⟨2, 0, 0⟩).CMD = 0x00000002 := by decide

/-- The states that BYTE of each byte of a word go through, one after another. -/
def byteStates (d : Word64) (i : Nat) : State :=
  { State.reset with R := (List.range i).foldl (fun x j => byteStep x (d.extractLsb' (8 * j) 8)) 0xFFFFFFFF }

theorem witness_WordEqualsItsBytes :
    ∀ i, i < (byteStates 0x3837363534333231 0).cfg.W.bytes →
      exec (.byte ((0x3837363534333231 : Word64).extractLsb' (8 * i) 8)) (byteStates 0x3837363534333231 i) =
        .next (byteStates 0x3837363534333231 (i + 1)) := by
  intro i _
  simp only [exec, execByte, State.setR, byteStates, List.range_succ, List.foldl_append, List.foldl_cons,
    List.foldl_nil]

/-- The longest buffers that fit: to the top of the space for `AW = 64` and for `AW = 16`, and both counts' clause. -/
theorem witness_UpdateStarts :
    (9 : Word64) ≠ 0 ∧ (0xFFFFFFFFFFFFFFF7 : Word64).toNat + (9 : Word64).toNat ≤ 2 ^ (start .w8 63).cfg.AW ∧
    (1 : Word64) ≠ 0 ∧ (0xFFFF : Word64).toNat + (1 : Word64).toNat ≤ 2 ^ (start .w4 15).cfg.AW ∧
    (inFlight .w8 0 1 0).WORDS ≠ 0 ∧ (inFlight .w8 0 0 1).BYTES ≠ 0 := by decide

/-- One byte over the top is RANGE; exactly to the top is not; the two clauses have no buffer in common. -/
theorem witness_RangeFaults :
    (9 : Word64) ≠ 0 ∧ (0xFFFFFFFFFFFFFFF8 : Word64).toNat + (9 : Word64).toNat > 2 ^ (start .w8 63).cfg.AW ∧
    (0x10000 : Word64).toNat + (1 : Word64).toNat > 2 ^ (start .w8 15).cfg.AW ∧
    (0xFFFFFFFFFFFFFFF7 : Word64).toNat + (9 : Word64).toNat = 2 ^ (start .w8 63).cfg.AW ∧
    (0x10000 : Word64).toNat + (0 : Word64).toNat = 2 ^ (start .w8 15).cfg.AW := by decide

/-- The frame's clauses for UPDATE: one that starts, one that faults, and a command that is none of the four writers. -/
theorem witness_FrameOfEveryCommand :
    (∃ t, exec (.update 0x1000 9) (start .w8 63) = .next t) ∧
    (∀ base len, Instr.update 0x1000 9 = .update base len → len ≠ 0 → base.toNat + len.toNat ≤ 2 ^ (start .w8 63).cfg.AW) ∧
    (∃ t, exec (.update 0xFFFFFFFFFFFFFFF8 9) (start .w8 63) = .next t) ∧
    (∃ t, exec .nop (start .w8 63) = .next t) ∧ Instr.nop.op ≠ .read ∧ Instr.nop.op ≠ .load ∧ Instr.nop.op ≠ .byte ∧
    Instr.nop.op ≠ .word ∧ Instr.nop.op ≠ .update := by
  refine ⟨⟨_, rfl⟩, ?_, ⟨_, rfl⟩, ⟨_, rfl⟩, by decide, by decide, by decide, by decide, by decide⟩
  intro base len h _
  cases h; decide

/-! ## Witnesses: the beats -/

theorem witness_WordBeat :
    (inFlight .w8 0x1000 1 1).beating = true ∧ 0 < (inFlight .w8 0x1000 1 1).WORDS ∧
    (digits.take 8).length = (inFlight .w8 0x1000 1 1).cfg.W.bytes ∧
    (inFlight .w8 0x1000 1 1).mem.holds (inFlight .w8 0x1000 1 1).PTR (digits.take 8) :=
  ⟨by decide, by decide, by decide, (Memory.readBytes_ok (n := 8) rfl).2⟩

theorem witness_ByteBeat :
    (inFlight .w8 0x1008 0 1).beating = true ∧ (inFlight .w8 0x1008 0 1).WORDS = 0 ∧
    (inFlight .w8 0x1008 0 1).mem.read (inFlight .w8 0x1008 0 1).PTR = some 0x39 := by decide

/-- A word beat whose last byte alone is unreadable. -/
theorem witness_BusAtTheLastByte :
    (inFlight .w8 0x1009 1 0).beating = true ∧ (inFlight .w8 0x1009 1 0).PTR ≤ 0x1010 ∧
    0x1010 < (inFlight .w8 0x1009 1 0).PTR +
      (if 0 < (inFlight .w8 0x1009 1 0).WORDS then (inFlight .w8 0x1009 1 0).cfg.W.bytes else 1) ∧
    (inFlight .w8 0x1009 1 0).mem.read 0x1010 = none ∧
    (inFlight .w8 0x1009 1 0).mem.readable (inFlight .w8 0x1009 1 0).PTR 0x1010 :=
  ⟨by decide, by decide, by decide, by decide, readable_of_readBytes (lo := 0x1009) (n := 7) (bs := [0, 0, 0, 0, 0, 0, 0]) rfl⟩

/-- A byte beat whose byte is unreadable. -/
theorem witness_BusAtAByte :
    (inFlight .w4 0x1010 0 3).beating = true ∧ (inFlight .w4 0x1010 0 3).PTR ≤ 0x1010 ∧
    0x1010 < (inFlight .w4 0x1010 0 3).PTR +
      (if 0 < (inFlight .w4 0x1010 0 3).WORDS then (inFlight .w4 0x1010 0 3).cfg.W.bytes else 1) ∧
    (inFlight .w4 0x1010 0 3).mem.read 0x1010 = none ∧
    (inFlight .w4 0x1010 0 3).mem.readable (inFlight .w4 0x1010 0 3).PTR 0x1010 := by
  refine ⟨by decide, by decide, by decide, by decide, fun a h1 h2 => ?_⟩
  have h3 : 0x1010 ≤ a := h1
  omega

theorem witness_NoBeatLeft : (start .w8 63).WORDS = 0 ∧ (start .w8 63).BYTES = 0 := by decide

/-! ## Witnesses: faults and reset -/

/-- A fault entry of each cause. -/
theorem witness_EveryFaultEntry :
    (∃ t, step (offered .w8 63 6 0 0) = .next t ∧ (offered .w8 63 6 0 0).FAULT = false ∧ t.FAULT = true) ∧
    (∃ t, step (offered .w8 15 5 0x10000 1) = .next t ∧ (offered .w8 15 5 0x10000 1).FAULT = false ∧ t.FAULT = true) ∧
    (∃ t, step (inFlight .w8 0x100C 1 0) = .next t ∧ (inFlight .w8 0x100C 1 0).FAULT = false ∧ t.FAULT = true) :=
  ⟨⟨_, rfl, rfl, rfl⟩, ⟨_, rfl, rfl, rfl⟩, ⟨_, rfl, rfl, rfl⟩⟩

/-- A faulted state on CORE's turn, and one on the host's. -/
theorem witness_FaultedStateIsTerminal :
    ((faulted []).FAULT = true ∧ (faulted []).coreTurn = true ∧ (faulted []).RESET = false) ∧
    (faulted [.host (.placeByte 0x1000 0)]).FAULT = true ∧ (faulted [.host (.placeByte 0x1000 0)]).BUSY = false ∧
    (faulted [.host (.placeByte 0x1000 0)]).resetting = false ∧
    (faulted [.host (.placeByte 0x1000 0)]).CMD_VALID = true ∧
    ∃ t, step (faulted [.host (.placeByte 0x1000 0)]) = .next t :=
  ⟨by decide, rfl, rfl, by decide, rfl, _, rfl⟩

theorem witness_OnlyFaultEntryAndReset :
    (∃ t, step (faulted [.host .pulseReset]) = .next t) ∧ (faulted []).FAULT = true :=
  ⟨⟨_, rfl⟩, rfl⟩

/-- Reset by the level over a beat, by the pulse over a fault, and a command still presented after a pulse. -/
theorem witness_ResetRestoresEveryElement :
    ({ inFlight .w8 0x1000 1 1 with RESET := true } : State).resetting = true ∧
    (faulted [.host .pulseReset]).resetting = true ∧
    (∃ t, step (faulted [.host .pulseReset]) = .next t ∧ (faulted [.host .pulseReset]).FAULT = true ∧
      t.FAULT = false ∧ t.CMD_VALID = true ∧ t.RESET = false ∧ t.coreTurn = true) :=
  ⟨by decide, by decide, _, rfl, rfl, rfl, rfl, rfl, rfl⟩

theorem witness_ResetAbortsTheUpdate :
    ({ inFlight .w8 0x1000 1 1 with RESET := true } : State).BUSY = true ∧
    ({ inFlight .w8 0x1000 1 1 with RESET := true } : State).resetting = true := by decide

/-! ## Witnesses: rules of the whole machine -/

theorem witness_EveryStepKeepsTheInvariant :
    (inFlight .w8 0x1000 1 1).Inv ∧ ∃ t, step (inFlight .w8 0x1000 1 1) = .next t :=
  ⟨inFlight_inv, _, rfl⟩

theorem witness_StatusHoldsOneOfFiveValues : (inFlight .w8 0x1000 1 1).Inv := inFlight_inv

theorem witness_CoreNeverWritesMemory :
    ((inFlight .w8 0x1000 1 1).coreTurn = true ∧ ∃ t, step (inFlight .w8 0x1000 1 1) = .next t) ∧
    ((faulted [.host .pulseReset]).resetting = true ∧ ∃ t, step (faulted [.host .pulseReset]) = .next t) :=
  ⟨⟨rfl, _, rfl⟩, by decide, _, rfl⟩

theorem witness_OnlyReadAndResetWriteResult :
    (∃ t, step (offered .w8 63 2 0 0) = .next t) ∧
    (∃ t, step (inFlight .w8 0x100C 1 0) = .next t ∧ (inFlight .w8 0x100C 1 0).FAULT = false ∧ t.FAULT = true) :=
  ⟨⟨_, rfl⟩, _, rfl, rfl, rfl⟩

theorem witness_OnlyFoldsLoadAndResetWriteR : ∃ t, step (offered .w4 63 4 0x3837363534333231 0) = .next t := ⟨_, rfl⟩

theorem witness_BuildParametersNeverChange : ∃ t, run 3 (offered .w4 15 5 0x1000 9) = .next t := ⟨_, rfl⟩

theorem witness_MemoryIsFixedWhileBusy :
    (inFlight .w8 0x1000 1 1).BUSY = true ∧ ∃ t, step (inFlight .w8 0x1000 1 1) = .next t := ⟨rfl, _, rfl⟩

theorem witness_PortsStayStable :
    ∃ t, step ((inFlight .w8 0x1000 1 1).present ⟨2, 0, 0⟩) = .next t ∧
      ((inFlight .w8 0x1000 1 1).present ⟨2, 0, 0⟩).CMD_VALID = true := ⟨_, rfl, rfl⟩

/-- The four clauses, at the last address of a space of 2^16 bytes and at the first past it. -/
theorem witness_HostMemoryMoves :
    ({ start .w8 15 with turns := [.host (.placeByte 0xFFFF 1)] } : State).turns = .host (.placeByte 0xFFFF 1) :: [] ∧
    ({ start .w8 15 with turns := [.host (.removeByte 0xFFFF)] } : State).turns = .host (.removeByte 0xFFFF) :: [] ∧
    (start .w8 15).mem.wf = true ∧ (start .w8 15).BUSY = false ∧ 0xFFFF < 2 ^ (start .w8 15).cfg.AW ∧
    2 ^ (start .w8 15).cfg.AW ≤ 0x10000 ∧
    ({ inFlight .w8 0x1000 1 1 with turns := [.host (.removeByte 0x1000)] } : State).turns =
      .host (.removeByte 0x1000) :: [] ∧
    ({ inFlight .w8 0x1000 1 1 with turns := [.host (.removeByte 0x1000)] } : State).BUSY = true :=
  ⟨rfl, rfl, by decide, by decide, by decide, by decide, rfl, by decide⟩

/-! ## Witnesses: what an UPDATE does -/

/-- P1's UPDATE, offered to a block with nothing else to come. It meets the premises of UpdateCompletesAfterQPlusRBeats,
UpdateFoldsTheBuffer, WordWidthIsNotObservable and the first, second and fourth clause of
UpdateReadsEachAddressOnceAscending. -/
theorem witness_Update :
    (offered .w8 63 5 0x1000 9).accepting = true ∧ (offered .w8 63 5 0x1000 9).hostDone = true ∧
    decode .w8 (offered .w8 63 5 0x1000 9).presented = .ok (.update 0x1000 9) ∧ (9 : Word64) ≠ 0 ∧
    (0x1000 : Word64).toNat + (9 : Word64).toNat ≤ 2 ^ (offered .w8 63 5 0x1000 9).cfg.AW ∧
    digits.length = (9 : Word64).toNat ∧
    (offered .w8 63 5 0x1000 9).mem.readable (0x1000 : Word64).toNat ((0x1000 : Word64).toNat + (9 : Word64).toNat) ∧
    (offered .w8 63 5 0x1000 9).mem.holds (0x1000 : Word64).toNat digits :=
  ⟨by decide, by decide, rfl, by decide, by decide, by decide, sharedMem_readable, sharedMem_holds⟩

/-- The third clause of UpdateReadsEachAddressOnceAscending, one byte past the top, and the fourth: a fault after it. -/
theorem witness_UpdateReadsNothingAfterAFault :
    (offered .w8 63 5 0xFFFFFFFFFFFFFFF8 9).accepting = true ∧ (offered .w8 63 5 0xFFFFFFFFFFFFFFF8 9).hostDone = true ∧
    decode .w8 (offered .w8 63 5 0xFFFFFFFFFFFFFFF8 9).presented = .ok (.update 0xFFFFFFFFFFFFFFF8 9) ∧
    (9 : Word64) ≠ 0 ∧
    (0xFFFFFFFFFFFFFFF8 : Word64).toNat + (9 : Word64).toNat > 2 ^ (offered .w8 63 5 0xFFFFFFFFFFFFFFF8 9).cfg.AW ∧
    ∃ t, run 1 (offered .w8 63 5 0xFFFFFFFFFFFFFFF8 9) = .next t ∧ t.FAULT = true :=
  ⟨by decide, by decide, rfl, by decide, by decide, _, rfl, rfl⟩

/-- V22: `crc.update 0x100C, 8` with readable bytes up to 0x100F. -/
theorem witness_UpdateReportsTheLowest :
    (offered .w4 63 5 0x100C 8).accepting = true ∧ (offered .w4 63 5 0x100C 8).hostDone = true ∧
    decode .w4 (offered .w4 63 5 0x100C 8).presented = .ok (.update 0x100C 8) ∧
    (0x100C : Word64).toNat + (8 : Word64).toNat ≤ 2 ^ (offered .w4 63 5 0x100C 8).cfg.AW ∧
    (0x100C : Word64).toNat ≤ 0x1010 ∧ 0x1010 < (0x100C : Word64).toNat + (8 : Word64).toNat ∧
    (offered .w4 63 5 0x100C 8).mem.read 0x1010 = none ∧
    (offered .w4 63 5 0x100C 8).mem.readable (0x100C : Word64).toNat 0x1010 :=
  ⟨by decide, by decide, rfl, by decide, by decide, by decide, by decide,
    readable_of_readBytes (lo := 0x100C) (n := 4) (bs := [0, 0, 0, 0]) rfl⟩

/-- P1, the whole sequence. -/
def contractStart : State :=
  { start .w8 63 with
    turns := [.host (.present (encode (.load 0))), .core, .host (.present (encode (.update 0x1000 9))), .core,
      .host (.present (encode .read))] }

theorem witness_Contract :
    contractStart.READY = true ∧ contractStart.RESET = false ∧ contractStart.CMD_VALID = false ∧
    contractStart.CAUSE = .none ∧
    contractStart.turns = [.host (.present (encode (.load 0))), .core, .host (.present (encode (.update 0x1000 9))),
      .core, .host (.present (encode .read))] ∧
    (0x1000 : Word64).toNat + (9 : Word64).toNat ≤ 2 ^ contractStart.cfg.AW ∧
    digits.length = (9 : Word64).toNat ∧ contractStart.mem.holds (0x1000 : Word64).toNat digits :=
  ⟨rfl, rfl, rfl, rfl, rfl, by decide, by decide, sharedMem_holds⟩

/-- P2's two fragments, back to back. -/
def streamStart : State :=
  { start .w4 63 with
    turns := [.host (.present (encode (.update 0x1000 4))), .core, .host (.present (encode (.update 0x1004 5)))] }

theorem witness_Streaming :
    streamStart.READY = true ∧ streamStart.RESET = false ∧ streamStart.CMD_VALID = false ∧
    streamStart.turns =
      [.host (.present (encode (.update 0x1000 4))), .core, .host (.present (encode (.update 0x1004 5)))] ∧
    (0x1000 : Word64).toNat + (4 : Word64).toNat ≤ 2 ^ streamStart.cfg.AW ∧
    (digits.take 4).length = (4 : Word64).toNat ∧ streamStart.mem.holds (0x1000 : Word64).toNat (digits.take 4) ∧
    (0x1004 : Word64).toNat + (5 : Word64).toNat ≤ 2 ^ streamStart.cfg.AW ∧
    (digits.drop 4).length = (5 : Word64).toNat ∧ streamStart.mem.holds (0x1004 : Word64).toNat (digits.drop 4) :=
  ⟨rfl, rfl, rfl, rfl, by decide, by decide, (Memory.readBytes_ok (n := 4) rfl).2, by decide, by decide,
    (Memory.readBytes_ok (n := 5) rfl).2⟩

theorem witness_StreamingReadLoad :
    ∃ t u, exec .read (start .w8 63) = .next t ∧ exec (.load t.RESULT) t = .next u := ⟨_, _, rfl, rfl⟩

/-- A legal command and legal turns behind an UPDATE in flight, a reset and a host write among them. -/
def legalStart : State :=
  { (inFlight .w8 0x1000 1 1).present ⟨2, 0, 0⟩ with
    turns := [.core, .core, .core, .host (.present (encode (.update 0x1000 9))), .core, .host .pulseReset,
      .host (.placeByte 0x1000 0)] }

theorem witness_LegalSequences :
    legalStart.FAULT = false ∧ legalStart.mem.readable legalStart.PTR (legalStart.PTR + legalStart.bytesLeft) ∧
    (legalStart.CMD_VALID = true → legalStart.presented.legal legalStart.cfg legalStart.mem) ∧
    (∀ u ∈ legalStart.turns, u.legal legalStart.cfg legalStart.mem) ∧ ∃ t, run 9 legalStart = .next t := by
  refine ⟨rfl, sharedMem_readable, fun _ => ⟨.read, rfl, fun _ _ h => by cases h⟩, ?_, _, rfl⟩
  have hu : (encode (.update 0x1000 9)).legal legalStart.cfg legalStart.mem := by
    refine ⟨.update 0x1000 9, rfl, fun base len h _ => ?_⟩
    cases h
    exact ⟨by decide, sharedMem_readable⟩
  intro u hm
  simp only [legalStart, List.mem_cons, List.not_mem_nil, or_false] at hm
  rcases hm with rfl | rfl | rfl | rfl | rfl | rfl | rfl
  · trivial
  · trivial
  · trivial
  · exact hu
  · trivial
  · trivial
  · trivial

/-- The same state meets the premises of EveryStepKeepsLegalStatesLegal. -/
theorem witness_EveryStepKeepsLegal : legalStart.Legal ∧ ∃ t, step legalStart = .next t :=
  ⟨⟨witness_LegalSequences.1, witness_LegalSequences.2.1, witness_LegalSequences.2.2.1,
    witness_LegalSequences.2.2.2.1⟩, _, rfl⟩

theorem witness_EveryUpdateEnds :
    (inFlight .w8 0x1000 1 1).Inv ∧ (inFlight .w8 0x1000 1 1).BUSY = true ∧ (inFlight .w8 0x1000 1 1).RESET = false ∧
    (inFlight .w8 0x1000 1 1).hostDone = true := ⟨inFlight_inv, rfl, rfl, rfl⟩

theorem witness_FaultedRemainder :
    (faulted [.core, .host .pulseReset, .core]).FAULT = true ∧ (faulted [.core, .host .pulseReset, .core]).BUSY = false :=
  ⟨rfl, rfl⟩

/-- Both clauses of FaultedStatesStayEqualButForRAndPTR: a reset, and a step that is none. -/
theorem witness_FaultedStatesStayEqual :
    (faulted [.host .pulseReset]).FAULT = true ∧ (faulted [.host .pulseReset]).BUSY = false ∧
    (faulted [.host .pulseReset]).resetting = true ∧ (faulted [.host (.placeByte 0x1000 0)]).FAULT = true ∧
    (faulted [.host (.placeByte 0x1000 0)]).BUSY = false ∧
    (faulted [.host (.placeByte 0x1000 0)]).resetting = false ∧
    ∃ t, step (faulted [.host (.placeByte 0x1000 0)]) = .next t :=
  ⟨rfl, rfl, by decide, rfl, rfl, by decide, _, rfl⟩

/-- WordWidthIsNotObservable where `q + r` differs: 2 beats at W = 8, 3 at W = 4. -/
theorem witness_WordWidthsDiffer :
    (9 : Word64).toNat / WordWidth.w8.bytes + (9 : Word64).toNat % WordWidth.w8.bytes = 2 ∧
    (9 : Word64).toNat / WordWidth.w4.bytes + (9 : Word64).toNat % WordWidth.w4.bytes = 3 := by decide

/-! ## Witnesses: the datapath -/

theorem witness_MemReadComposes :
    (8 : Nat) ≤ 8 ∧ sharedMem.readBytes 0x1000 8 = .ok (digits.take 8) := ⟨by decide, rfl⟩

theorem witness_UpdateIsIncremental : 4 ≤ digits.length ∧ digits.length ≤ digits.length := by decide

theorem witness_ZeroByte : ∃ t, exec (.byte 0) State.reset = .next t ∧ State.reset.R ≠ 0 := ⟨_, rfl, by decide⟩

end Sys2Proof.Tests
end

section
/-! PROOFS. The registers of 10_state.md over one step: which step is taken in terms of the state before it, which steps
leave every register as it is, and what each of the others does to FAULT, CAUSE, FAULT_INFO (R26) and RESULT (R23). -/

namespace Sys2Proof.Machine

/-! ## The step that is taken -/

/-- `t` has the build parameters and every register of `s` (10_state.md R22 to R31); the ports, the memory and the turns
are free. -/
structure State.SameRegisters (s t : State) : Prop where
  cfg : t.cfg = s.cfg
  R : t.R = s.R
  RESULT : t.RESULT = s.RESULT
  FAULT : t.FAULT = s.FAULT
  CAUSE : t.CAUSE = s.CAUSE
  FAULT_INFO : t.FAULT_INFO = s.FAULT_INFO
  PTR : t.PTR = s.PTR
  WORDS : t.WORDS = s.WORDS
  BYTES : t.BYTES = s.BYTES

/-- Taking a turn off the list leaves every register. -/
theorem State.sameRegisters_popTurn (s : State) : s.SameRegisters s.popTurn := by constructor <;> rfl

/-- The registers are those of the state whose turn was taken off the list. -/
theorem State.SameRegisters.of_popTurn {s t : State} (h : s.popTurn.SameRegisters t) : s.SameRegisters t :=
  ⟨h.cfg, h.R, h.RESULT, h.FAULT, h.CAUSE, h.FAULT_INFO, h.PTR, h.WORDS, h.BYTES⟩

/-- A host move that is no reset pulse leaves every register (70_reset_and_hazards.md R209). -/
theorem hostMove_sameRegisters {m : HostMove} {s t : State} (h : hostMove m s = .next t) (hm : m ≠ .pulseReset) :
    s.SameRegisters t := by
  obtain ⟨c, -, -, rfl⟩ | ⟨level, -, rfl⟩ | ⟨hp, -⟩ | ⟨a, v, -, -, -, rfl⟩ | ⟨a, -, -, -, rfl⟩ := hostMove_cases h
  case inr.inr.inl => exact absurd hp hm
  all_goals constructor <;> rfl

/-- A beat is the next step exactly on CORE's turn with RESET 0, BUSY 1 and FAULT 0 (R145). -/
theorem State.beating_iff (s : State) :
    s.beating = true ↔ s.coreTurn = true ∧ s.RESET = false ∧ s.BUSY = true ∧ s.FAULT = false := by
  simp [State.beating, and_assoc]

/-- An accept is the next step exactly on CORE's turn with RESET 0, BUSY and FAULT 0 and a command presented (R119). -/
theorem State.accepting_iff (s : State) :
    s.accepting = true ↔
      s.coreTurn = true ∧ s.RESET = false ∧ s.BUSY = false ∧ s.FAULT = false ∧ s.CMD_VALID = true := by
  simp [State.accepting, State.READY, and_assoc]

/-- Everything a step can do: a reset, a beat, an accept, or a step that leaves every register. -/
theorem step_next_cases {s t : State} (h : step s = .next t) :
    (s.resetting = true ∧ t = s.popTurn.resetStep) ∨
    (s.beating = true ∧ beat s.popTurn = .next t) ∨
    (s.accepting = true ∧ accept s.popTurn = .next t) ∨
    s.SameRegisters t := by
  obtain ⟨hturn, hs⟩ | ⟨m, rest, hturns, -, hs⟩ := step_cases s <;> rw [hs] at h
  · obtain ⟨hr, rfl⟩ | ⟨-, -, rfl⟩ | ⟨hr, hf, hb, h⟩ | ⟨hr, hf, hb, hv, h⟩ | ⟨-, -, -, -, rfl⟩ := coreStep_cases h
    case inl =>
      have hr : s.RESET = true := hr
      exact .inl ⟨by simp [State.resetting, hturn, hr], rfl⟩
    case inr.inr.inl => exact .inr (.inl ⟨s.beating_iff.2 ⟨hturn, hr, hb, hf⟩, h⟩)
    case inr.inr.inr.inl => exact .inr (.inr (.inl ⟨s.accepting_iff.2 ⟨hturn, hr, hb, hf, hv⟩, h⟩))
    all_goals exact .inr (.inr (.inr s.sameRegisters_popTurn))
  · by_cases hm : m = .pulseReset
    · subst hm
      cases h
      exact .inl ⟨by simp [State.resetting, hturns], rfl⟩
    · exact .inr (.inr (.inr (hostMove_sameRegisters h hm).of_popTurn))

/-! ## The fault registers -/

/-- `t` has the three fault registers of `s` (R26, R27, R29). -/
def State.SameFaultRegisters (s t : State) : Prop :=
  t.FAULT = s.FAULT ∧ t.CAUSE = s.CAUSE ∧ t.FAULT_INFO = s.FAULT_INFO

/-- A beat leaves the fault registers or sets FAULT (R146). -/
theorem beat_sameFaultRegisters_or_FAULT {s t : State} (h : beat s = .next t) :
    s.SameFaultRegisters t ∨ t.FAULT = true := by
  obtain ⟨-, bs, -, rfl⟩ | ⟨-, b, -, rfl⟩ | ⟨-, a, -, rfl⟩ | ⟨-, -, rfl⟩ := beat_cases h
  · exact .inl ⟨rfl, rfl, rfl⟩
  · exact .inl ⟨rfl, rfl, rfl⟩
  · exact .inr rfl
  · exact .inr rfl

/-- A command leaves the fault registers or sets FAULT; only UPDATE past the top of the space does the latter (R171). -/
theorem exec_sameFaultRegisters_or_FAULT {i : Instr} {s t : State} (h : exec i s = .next t) :
    s.SameFaultRegisters t ∨ t.FAULT = true := by
  obtain ⟨-, rfl⟩ | ⟨v, -, rfl⟩ | ⟨-, rfl⟩ | ⟨b, -, rfl⟩ | ⟨d, -, rfl⟩ | ⟨base, -, rfl⟩ |
    ⟨base, len, -, -, -, rfl⟩ | ⟨base, len, -, -, -, rfl⟩ := exec_cases h
  case inr.inr.inr.inr.inr.inr.inl => exact .inr rfl
  all_goals exact .inl ⟨rfl, rfl, rfl⟩

/-- The accept step leaves the fault registers or sets FAULT (R119, R170, R171). -/
theorem accept_sameFaultRegisters_or_FAULT {s t : State} (h : accept s = .next t) :
    s.SameFaultRegisters t ∨ t.FAULT = true := by
  obtain ⟨e, -, rfl⟩ | ⟨i, -, h⟩ := accept_cases h
  · exact .inr rfl
  · exact exec_sameFaultRegisters_or_FAULT (s := s.consume) h

/-- Settles O23: a reset clears the fault registers, a beat and an accept find FAULT at 0 and keep them or set it, and
every other step leaves all registers. -/
theorem onlyFaultEntryAndResetWriteTheFaultRegisters :
    Obligations.OnlyFaultEntryAndResetWriteTheFaultRegisters := by
  unfold Obligations.OnlyFaultEntryAndResetWriteTheFaultRegisters
  refine ⟨fun s t h => ?_, fun s hf => ?_⟩
  · obtain ⟨hr, rfl⟩ | ⟨hb, h⟩ | ⟨ha, h⟩ | hsame := step_next_cases h
    · exact .inr (.inr ⟨hr, rfl, rfl, rfl⟩)
    · obtain ⟨-, -, -, hf⟩ := s.beating_iff.1 hb
      exact (beat_sameFaultRegisters_or_FAULT h).imp id fun ht => .inl ⟨hf, ht, .inr hb⟩
    · obtain ⟨-, -, -, hf, -⟩ := s.accepting_iff.1 ha
      exact (accept_sameFaultRegisters_or_FAULT h).imp id fun ht => .inl ⟨hf, ht, .inl ha⟩
    · exact .inl ⟨hsame.FAULT, hsame.CAUSE, hsame.FAULT_INFO⟩
  · constructor
    · simp [State.accepting, State.READY, hf]
    · simp [State.beating, hf]

/-! ## RESULT -/

/-- No beat writes RESULT, a faulting one included (R146, R173). -/
theorem beat_RESULT {s t : State} (h : beat s = .next t) : t.RESULT = s.RESULT := by
  obtain ⟨-, bs, -, rfl⟩ | ⟨-, b, -, rfl⟩ | ⟨-, a, -, rfl⟩ | ⟨-, -, rfl⟩ := beat_cases h <;> rfl

/-- Only READ writes RESULT (R122). -/
theorem exec_RESULT_or_read {i : Instr} {s t : State} (h : exec i s = .next t) :
    t.RESULT = s.RESULT ∨ (i = .read ∧ t = s.setRESULT (s.R ^^^ K)) := by
  obtain ⟨-, rfl⟩ | ⟨v, -, rfl⟩ | hread | ⟨b, -, rfl⟩ | ⟨d, -, rfl⟩ | ⟨base, -, rfl⟩ |
    ⟨base, len, -, -, -, rfl⟩ | ⟨base, len, -, -, -, rfl⟩ := exec_cases h
  case inr.inr.inl => exact .inr hread
  all_goals exact .inl rfl

/-- What decodes to READ has the command word 2 (R72). -/
theorem CMD_eq_two_of_decode_read {W : WordWidth} {c : Command} (h : decode W c = .ok .read) :
    c.CMD = 0x00000002 := by
  obtain ⟨op, hcmd, hi⟩ := decode_eq_ok h
  have hop : op = .read := by rw [← assemble_op W op c.A c.B, ← hi]; rfl
  rw [hcmd, hop]; rfl

/-- The accept step leaves RESULT, or the word is 2 and the step is READ's on the consumed command (R119, R122). -/
theorem accept_RESULT_or_read {s t : State} (h : accept s = .next t) :
    t.RESULT = s.RESULT ∨ (s.CMD = 0x00000002 ∧ t = s.consume.setRESULT (s.R ^^^ K)) := by
  obtain ⟨e, -, rfl⟩ | ⟨i, hi, h⟩ := accept_cases h
  · exact .inl rfl
  · obtain hkept | ⟨rfl, rfl⟩ := exec_RESULT_or_read h
    · exact .inl hkept
    · exact .inr ⟨CMD_eq_two_of_decode_read hi, rfl⟩

/-- Every step leaves RESULT, or is an accepted READ, or is a reset (R23). -/
theorem step_RESULT_cases {s t : State} (h : step s = .next t) :
    t.RESULT = s.RESULT ∨
    (s.accepting = true ∧ s.CMD = 0x00000002 ∧ t = s.popTurn.consume.setRESULT (s.R ^^^ K)) ∨
    (s.resetting = true ∧ t = s.popTurn.resetStep) := by
  obtain hreset | ⟨-, h⟩ | ⟨ha, h⟩ | hsame := step_next_cases h
  · exact .inr (.inr hreset)
  · exact .inl (beat_RESULT (s := s.popTurn) h)
  · exact (accept_RESULT_or_read h).imp id fun hread => .inl ⟨ha, hread⟩
  · exact .inl hsame.RESULT

/-- Settles O31: the three kinds of step, of which READ keeps FAULT and a reset clears it, so that neither raises a
fault. -/
theorem onlyReadAndResetWriteResult : Obligations.OnlyReadAndResetWriteResult := by
  unfold Obligations.OnlyReadAndResetWriteResult
  refine ⟨fun s t h => ?_, fun s t h hf ht => ?_, rfl⟩
  · obtain hkept | ⟨ha, hcmd, rfl⟩ | ⟨hr, rfl⟩ := step_RESULT_cases h
    · exact .inl hkept
    · exact .inr (.inl ⟨ha, hcmd, rfl⟩)
    · exact .inr (.inr ⟨hr, rfl⟩)
  · obtain hkept | ⟨-, -, rfl⟩ | ⟨-, rfl⟩ := step_RESULT_cases h
    · exact hkept
    · have hread : s.FAULT = true := ht
      simp [hf] at hread
    · cases ht

end Sys2Proof.Machine
end

section
/-! PROOFS. The memory over one step of CORE and over a reset (20_memory.md R53). -/

namespace Sys2Proof.Machine

/-- A beat reads the memory and leaves it, a faulting one included (R146). -/
theorem beat_mem {s t : State} (h : beat s = .next t) : t.mem = s.mem := by
  obtain ⟨-, bs, -, rfl⟩ | ⟨-, b, -, rfl⟩ | ⟨-, a, -, rfl⟩ | ⟨-, -, rfl⟩ := beat_cases h <;> rfl

/-- No command stores (R120 to R122, R130, R131, R140). -/
theorem exec_mem {i : Instr} {s t : State} (h : exec i s = .next t) : t.mem = s.mem := by
  obtain ⟨-, rfl⟩ | ⟨v, -, rfl⟩ | ⟨-, rfl⟩ | ⟨b, -, rfl⟩ | ⟨d, -, rfl⟩ | ⟨base, -, rfl⟩ |
    ⟨base, len, -, -, -, rfl⟩ | ⟨base, len, -, -, -, rfl⟩ := exec_cases h <;> rfl

/-- The accept step leaves the memory, for a legal command and for an illegal word (R119, R170). -/
theorem accept_mem {s t : State} (h : accept s = .next t) : t.mem = s.mem := by
  obtain ⟨e, -, rfl⟩ | ⟨i, -, h⟩ := accept_cases h
  · rfl
  · exact exec_mem (s := s.consume) h

/-- CORE's turn leaves the memory, whichever step it is (R53). -/
theorem coreStep_mem {s t : State} (h : coreStep s = .next t) : t.mem = s.mem := by
  obtain ⟨-, rfl⟩ | ⟨-, -, rfl⟩ | ⟨-, -, -, h⟩ | ⟨-, -, -, -, h⟩ | ⟨-, -, -, -, rfl⟩ := coreStep_cases h
  case inr.inr.inl => exact beat_mem h
  case inr.inr.inr.inl => exact accept_mem h
  all_goals rfl

/-- On the host's turn the only reset is the pulse (R200). -/
theorem State.resetting_iff_of_host {s : State} {m : HostMove} {rest : List Turn} (h : s.turns = .host m :: rest) :
    s.resetting = true ↔ m = .pulseReset := by
  simp [State.resetting, State.coreTurn, h]

/-- Settles O30: each kind of step on CORE's turn leaves the memory, and the one reset that is no turn of CORE is the
host's pulse, which leaves it too. -/
theorem coreNeverWritesMemory : Obligations.CoreNeverWritesMemory := by
  unfold Obligations.CoreNeverWritesMemory
  intro s t hturn h
  obtain ⟨-, hs⟩ | ⟨m, rest, hturns, hhost, hs⟩ := step_cases s <;> rw [hs] at h
  · exact coreStep_mem (s := s.popTurn) h
  · have hreset : s.resetting = true := hturn.resolve_left (by simp [hhost])
    obtain rfl := (State.resetting_iff_of_host hturns).1 hreset
    cases h
    rfl

end Sys2Proof.Machine
end

section
/-! PROOFS. Which words are commands and what the others do at their accept step (30_encoding.md R71, R72, R75). -/

namespace Sys2Proof

/-- A word decodes to a command exactly when it is that command's word (R71, R72). -/
theorem decodeOp_eq_ok_iff {c : Word32} {op : Op} : decodeOp c = .ok op ↔ c = op.cmdWord := by
  constructor
  · exact decodeOp_eq_ok
  · rintro rfl
    exact decodeOp_cmdWord op

/-- The six words of R72 are the words below 6. -/
theorem exists_eq_cmdWord_iff {c : Word32} : (∃ op, c = Op.cmdWord op) ↔ c.toNat < 6 := by
  constructor
  · rintro ⟨op, rfl⟩
    cases op <;> decide
  · intro h
    interval_cases hn : c.toNat
    · exact ⟨.nop, BitVec.eq_of_toNat_eq hn⟩
    · exact ⟨.load, BitVec.eq_of_toNat_eq hn⟩
    · exact ⟨.read, BitVec.eq_of_toNat_eq hn⟩
    · exact ⟨.byte, BitVec.eq_of_toNat_eq hn⟩
    · exact ⟨.word, BitVec.eq_of_toNat_eq hn⟩
    · exact ⟨.update, BitVec.eq_of_toNat_eq hn⟩

/-- A command whose word selects `op` decodes to `op` with its assembled operands (R71, R74). -/
theorem decode_of_decodeOp {W : WordWidth} {c : Command} {op : Op} (h : decodeOp c.CMD = .ok op) :
    decode W c = .ok (Machine.assemble W op c.A c.B) := by
  simp only [decode, h]

/-- A presented word decodes exactly when it is below 6, whatever stands on the operand ports (R75). -/
theorem exists_decode_eq_ok_iff {W : WordWidth} {c : Command} : (∃ i, decode W c = .ok i) ↔ c.CMD.toNat < 6 := by
  rw [← exists_eq_cmdWord_iff]
  constructor
  · rintro ⟨i, hi⟩
    obtain ⟨op, hop, -⟩ := decode_eq_ok hi
    exact ⟨op, hop⟩
  · rintro ⟨op, hop⟩
    exact ⟨_, decode_of_decodeOp (decodeOp_eq_ok_iff.2 hop)⟩

/-- A word that is not below 6 is illegal (R75). -/
theorem exists_decode_eq_error {W : WordWidth} {c : Command} (h : 6 ≤ c.CMD.toNat) : ∃ e, decode W c = .error e := by
  cases hd : decode W c with
  | error e => exact ⟨e, rfl⟩
  | ok i => exact absurd (exists_decode_eq_ok_iff.1 ⟨i, hd⟩) (Nat.not_lt.2 h)

/-- A word with a reserved bit set is at least 16 (R70). -/
theorem sixteen_le_of_rsvField_ne_zero {c : Word32} (h : rsvField c ≠ 0) : 16 ≤ c.toNat := by
  by_contra hlt
  have hdiv : c.toNat / 2 ^ 4 = 0 := by omega
  refine h (BitVec.eq_of_toNat_eq ?_)
  rw [rsvField, BitVec.extractLsb'_toNat, Nat.shiftRight_eq_div_pow, hdiv]
  rfl

/-- What decodes has the word of its own command (R72). -/
theorem CMD_eq_cmdWord_of_decode {W : WordWidth} {c : Command} {i : Instr} (h : decode W c = .ok i) :
    c.CMD = i.op.cmdWord := by
  obtain ⟨op, hcmd, rfl⟩ := decode_eq_ok h
  rw [hcmd, Machine.assemble_op]

/-- NOP is the word 0 and no other (R72, R75). -/
theorem decode_eq_nop_iff {W : WordWidth} {c : Command} : decode W c = .ok .nop ↔ c.CMD = 0x00000000 := by
  constructor
  · exact CMD_eq_cmdWord_of_decode
  · intro h
    exact decode_of_decodeOp (op := .nop) (decodeOp_eq_ok_iff.2 h)

namespace Machine

/-- CORE's turn with RESET, FAULT and BUSY at 0 and a command presented is its accept step (R119). -/
theorem step_of_accepting {s : State} (h : s.accepting = true) : step s = accept s.popTurn := by
  obtain ⟨hturn, hr, hb, hf, hv⟩ := s.accepting_iff.1 h
  rw [step_of_coreTurn hturn]
  simp [coreStep, hr, hb, hf, hv]

/-- The accept step of an illegal word consumes it and raises ILLEGAL_CMD with the word as information (R170). -/
theorem accept_of_decode_error {s : State} {e : IllegalCmd} (h : decode s.cfg.W s.presented = .error e) :
    accept s = .next (s.consume.raiseFault .illegalCmd (s.CMD.setWidth 64)) := by
  simp only [accept, h]

/-- Settles O4: the six words of R72 are the words below 6, a reserved bit puts a word above them, and the accept step
of a word that does not decode raises ILLEGAL_CMD. -/
theorem everyOtherWordIsIllegal : Obligations.EveryOtherWordIsIllegal := by
  unfold Obligations.EveryOtherWordIsIllegal
  refine ⟨fun _ _ => exists_decode_eq_ok_iff, fun W c h => ?_, fun _ _ => decode_eq_nop_iff, fun s ha h6 => ?_⟩
  · have h16 : 16 ≤ c.CMD.toNat := sixteen_le_of_rsvField_ne_zero h
    exact exists_decode_eq_error (by omega)
  · obtain ⟨e, he⟩ := exists_decode_eq_error (W := s.cfg.W) (c := s.popTurn.presented) h6
    exact ⟨_, (step_of_accepting ha).trans (accept_of_decode_error he), rfl, rfl⟩

end Machine

end Sys2Proof
end

section
/-! PROOFS. The operand bits that a command ignores (30_encoding.md R73): a command's operands come from the bits it
uses, and every other part of CORE's turn keeps whatever stands on the operand ports and reads none of it. -/

namespace Sys2Proof.Machine

open Sys2Proof.Laws.IgnoredBitsZero (and_lowBits)

/-! ## The operands of a command -/

/-- All 64 bits of a port. -/
theorem and_lowBits_64 (x : Word64) : x &&& lowBits 64 = x := and_lowBits x.isLt

/-- Bits `[n-1:0]` of a port are those of its low `m` bits, where `n ≤ m`. -/
theorem extractLsb'_and_lowBits {n m : Nat} (h : n ≤ m) (x : Word64) :
    (x &&& lowBits m).extractLsb' 0 n = x.extractLsb' 0 n := by
  apply BitVec.eq_of_getLsbD_eq
  intro i hi
  have him : i < m := by omega
  simp only [BitVec.getLsbD_extractLsb', BitVec.getLsbD_and, getLsbD_lowBits, Nat.zero_add, hi, him, decide_true,
    Bool.true_and, Bool.and_true]
  by_cases h64 : i < 64
  · rw [decide_eq_true h64, Bool.and_true]
  · rw [BitVec.getLsbD_of_ge x i (Nat.le_of_not_lt h64), Bool.false_and]

/-- A command's operands are assembled from the bits it uses (R73, R74). -/
theorem assemble_and_used (W : WordWidth) (op : Op) (a b : Word64) :
    assemble W op (a &&& usedA W op) (b &&& usedB op) = assemble W op a b := by
  cases op with
  | nop => rfl
  | load => exact congrArg Instr.load (extractLsb'_and_lowBits (Nat.le_refl 32) a)
  | read => rfl
  | byte => exact congrArg Instr.byte (extractLsb'_and_lowBits (Nat.le_refl 8) a)
  | word => simp only [assemble, usedA, operandAW, BitVec.and_assoc, BitVec.and_self]
  | update => simp only [assemble, usedA, usedB, and_lowBits_64]

/-- Ports that agree on the bits a command uses give it the same operands (R73). -/
theorem assemble_congr {W : WordWidth} {op : Op} {a a' b b' : Word64} (hA : a &&& usedA W op = a' &&& usedA W op)
    (hB : b &&& usedB op = b' &&& usedB op) : assemble W op a b = assemble W op a' b' := by
  rw [← assemble_and_used W op a b, hA, hB, assemble_and_used]

/-! ## Other values on the operand ports -/

/-- The state with `a` and `b` on the operand ports. -/
def State.withOperands (a b : Word64) (s : State) : State := { s with A := a, B := b }

/-- `f` gives the same outcome with `a` and `b` on the operand ports, but for the ports themselves. -/
def KeepsOperands (f : State → Host.Outcome State Fault Refusal) : Prop :=
  ∀ (a b : Word64) (s : State), f (s.withOperands a b) = seen (State.withOperands a b) (f s)

/-- A word beat reads no operand port (R143). -/
theorem keepsOperands_wordBeat : KeepsOperands wordBeat := by
  intro a b s
  simp only [wordBeat, State.withOperands]
  split <;> rfl

/-- A byte beat reads no operand port (R144). -/
theorem keepsOperands_byteBeat : KeepsOperands byteBeat := by
  intro a b s
  simp only [byteBeat, State.withOperands]
  split <;> rfl

/-- A beat reads no operand port (R146). -/
theorem keepsOperands_beat : KeepsOperands beat := by
  intro a b s
  have hwords : (s.withOperands a b).WORDS = s.WORDS := rfl
  rw [beat, beat, hwords, keepsOperands_wordBeat, keepsOperands_byteBeat, apply_ite (seen _)]

/-- UPDATE takes its operands as assembled and reads no operand port (R140). -/
theorem keepsOperands_execUpdate (base len : Word64) : KeepsOperands (execUpdate base len) := by
  intro a b s
  rw [execUpdate, execUpdate, apply_ite (seen _), apply_ite (seen _)]
  rfl

/-- Once its operands are assembled, a command reads no operand port (R74). -/
theorem keepsOperands_exec (i : Instr) : KeepsOperands (exec i) := by
  cases i with
  | update base len => exact keepsOperands_execUpdate base len
  | _ => exact fun _ _ _ => rfl

/-- The accept step of a command executes it with its assembled operands (R119). -/
theorem accept_of_decodeOp {s : State} {op : Op} (h : decodeOp s.CMD = .ok op) :
    accept s = exec (assemble s.cfg.W op s.A s.B) s.consume := by
  simp only [accept, decode_of_decodeOp (c := s.presented) h]
  rfl

/-- The accept step of a command reads the operand bits it uses and no other (R73). -/
theorem accept_withOperands {s : State} {op : Op} {a b : Word64} (hop : decodeOp s.CMD = .ok op)
    (hA : s.A &&& usedA s.cfg.W op = a &&& usedA s.cfg.W op) (hB : s.B &&& usedB op = b &&& usedB op) :
    accept (s.withOperands a b) = seen (State.withOperands a b) (accept s) :=
  calc accept (s.withOperands a b)
    _ = exec (assemble s.cfg.W op a b) (s.consume.withOperands a b) := accept_of_decodeOp (s := s.withOperands a b) hop
    _ = seen (State.withOperands a b) (exec (assemble s.cfg.W op a b) s.consume) := keepsOperands_exec _ a b _
    _ = seen (State.withOperands a b) (accept s) := by rw [← assemble_congr hA hB, accept_of_decodeOp hop]

/-- CORE's turn is the same with other operands on the ports when the accept step is (R73). -/
theorem coreStep_withOperands {s : State} {a b : Word64}
    (h : accept (s.withOperands a b) = seen (State.withOperands a b) (accept s)) :
    coreStep (s.withOperands a b) = seen (State.withOperands a b) (coreStep s) := by
  have hbusy : (s.withOperands a b).BUSY = s.BUSY := rfl
  unfold coreStep
  rw [hbusy, keepsOperands_beat a b s, h]
  simp only [apply_ite (seen (State.withOperands a b))]
  rfl

/-- Settles O5: every case of CORE's turn but the accept step reads no operand port, and the accept step assembles the
command's operands from the bits it uses. -/
theorem ignoredOperandBitsHaveNoEffect : Obligations.IgnoredOperandBitsHaveNoEffect := by
  unfold Obligations.IgnoredOperandBitsHaveNoEffect
  intro s op a b hturn hop hA hB
  have hturn' : (s.withOperands a b).coreTurn = true := hturn
  calc step (s.withOperands a b)
    _ = coreStep (s.popTurn.withOperands a b) := step_of_coreTurn hturn'
    _ = seen (State.withOperands a b) (coreStep s.popTurn) :=
      coreStep_withOperands (accept_withOperands (s := s.popTurn) hop hA hB)
    _ = seen (State.withOperands a b) (step s) := by rw [step_of_coreTurn hturn]

end Sys2Proof.Machine
end

section
/-! PROOFS. NOP, LOAD and READ (41_state_commands.md R120 to R122): what each of them does to a state, and the hold of a
presented command while BUSY is 1 (R119, 70_reset_and_hazards.md R204). -/

namespace Sys2Proof.Machine

/-! ## What the three commands do -/

/-- NOP changes no state (R120). -/
theorem exec_nop (s : State) : exec .nop s = .next s := rfl

/-- LOAD writes the conditioned operand into the remainder (R121). -/
theorem exec_load (v : Word32) (s : State) : exec (.load v) s = .next (s.setR (v ^^^ K)) := rfl

/-- READ writes the conditioned remainder into RESULT (R122). -/
theorem exec_read (s : State) : exec .read s = .next (s.setRESULT (s.R ^^^ K)) := rfl

/-! ## The hold -/

/-- A beat always goes on: a byte it cannot read makes it a BUS fault entry, which is a next state (R146). -/
theorem exists_beat_eq_next (s : State) : ∃ t, beat s = .next t := by
  unfold beat
  split
  · unfold wordBeat
    split <;> exact ⟨_, rfl⟩
  · unfold byteBeat
    split <;> exact ⟨_, rfl⟩

/-- A beat leaves the command port, a faulting one included (R204, R173). -/
theorem beat_commandPort {s t : State} (h : beat s = .next t) :
    t.CMD_VALID = s.CMD_VALID ∧ t.presented = s.presented := by
  obtain ⟨-, bs, -, rfl⟩ | ⟨-, b, -, rfl⟩ | ⟨-, a, -, rfl⟩ | ⟨-, -, rfl⟩ := beat_cases h <;> exact ⟨rfl, rfl⟩

/-- CORE's turn with RESET and FAULT at 0 and BUSY at 1 is a beat (R145). -/
theorem step_of_beating {s : State} (h : s.beating = true) : step s = beat s.popTurn := by
  obtain ⟨hturn, hr, hb, hf⟩ := s.beating_iff.1 h
  rw [step_of_coreTurn hturn]
  simp [coreStep, hr, hb, hf]

/-- What is presented while BUSY is 1 is neither consumed nor executed: the step is a beat, which goes on and leaves the
command port and RESULT (R119, R204). -/
theorem exists_step_holding_command {s : State} (h : s.beating = true) :
    ∃ t, step s = .next t ∧ t.CMD_VALID = s.CMD_VALID ∧ t.presented = s.presented ∧ t.RESULT = s.RESULT := by
  obtain ⟨t, ht⟩ := exists_beat_eq_next s.popTurn
  obtain ⟨hvalid, hpresented⟩ := beat_commandPort ht
  exact ⟨t, (step_of_beating h).trans ht, hvalid, hpresented, beat_RESULT (s := s.popTurn) ht⟩

/-! ## The statements -/

/-- Settles O10: the word of NOP, its execution, and the hold, which keeps the command word among the presented. -/
theorem nopChangesNothing : Obligations.NopChangesNothing := by
  unfold Obligations.NopChangesNothing
  refine ⟨fun W a b => decode_of_cmdWord W .nop a b, exec_nop, fun s hturn hr hf hb hv hcmd => ?_⟩
  obtain ⟨t, hstep, hvalid, hpresented, -⟩ := exists_step_holding_command (s.beating_iff.2 ⟨hturn, hr, hb, hf⟩)
  have hword : t.CMD = s.CMD := congrArg Command.CMD hpresented
  exact ⟨t, hstep, hvalid.trans hv, hword.trans hcmd⟩

/-- Settles O11: the two corner cases are the execution at the operands 0 and K. -/
theorem loadSetsTheRemainder : Obligations.LoadSetsTheRemainder := by
  unfold Obligations.LoadSetsTheRemainder
  refine ⟨fun W a b => decode_of_cmdWord W .load a b, exec_load, fun s => ?_, fun s => ?_⟩
  · have hreset : (0 : Word32) ^^^ K = State.reset.R := BitVec.zero_xor
    rw [exec_load, hreset]
    rfl
  · have hzero : (0xFFFFFFFF : Word32) ^^^ K = 0 := BitVec.xor_self
    rw [exec_load, hzero]
    rfl

/-- Settles O12: a second READ finds the remainder the first one left and writes the same RESULT, and while BUSY is 1
the step is a beat, which does not write RESULT. -/
theorem readReturnsTheChecksumState : Obligations.ReadReturnsTheChecksumState := by
  unfold Obligations.ReadReturnsTheChecksumState
  refine ⟨fun W a b => decode_of_cmdWord W .read a b, exec_read, fun s t u ht hu => ?_,
    ⟨_, exec_read State.reset, BitVec.xor_self⟩, fun s hturn hr hf hb hv _ => ?_⟩
  · rw [exec_read] at ht hu
    cases ht
    cases hu
    rfl
  · obtain ⟨t, hstep, hvalid, -, hresult⟩ := exists_step_holding_command (s.beating_iff.2 ⟨hturn, hr, hb, hf⟩)
    exact ⟨t, hstep, hvalid.trans hv, hresult⟩

end Sys2Proof.Machine
end

section
/-! PROOFS. WORD (42_fold_commands.md R131): its operand for each word width, what it does to a state, and the byte steps
of the word-parallel shifter (40_datapath.md R104). -/

namespace Sys2Proof.Machine

/-! ## The operand -/

/-- At W = 4 the operand of form AW is `A[31:0]`, zero-extended (R74). -/
theorem operandAW_w4 (a : Word64) : operandAW .w4 a = (a.extractLsb' 0 32).setWidth 64 := by
  apply BitVec.eq_of_getLsbD_eq
  intro i hi
  have hlow : (lowBits (8 * WordWidth.w4.bytes)).getLsbD i = decide (i < 32) := by
    rw [getLsbD_lowBits, decide_eq_true hi]
    rfl
  simp only [operandAW, BitVec.getLsbD_and, hlow, BitVec.getLsbD_setWidth, BitVec.getLsbD_extractLsb', hi, decide_true,
    Bool.true_and, Nat.zero_add, Bool.and_comm]

/-- At W = 8 the operand of form AW is the whole port (R74). -/
theorem operandAW_w8 (a : Word64) : operandAW .w8 a = a := and_lowBits_64 a

/-- The command word 4 decodes to WORD of the operand of form AW (R72, R74). -/
theorem decode_word (W : WordWidth) (a b : Word64) : decode W ⟨0x00000004, a, b⟩ = .ok (.word (operandAW W a)) :=
  decode_of_cmdWord W .word a b

/-! ## The word step -/

/-- WORD folds its operand into the remainder (R131). -/
theorem exec_word (d : Word64) (s : State) : exec (.word d) s = .next (s.setR (wordStep s.cfg.W s.R d)) := rfl

/-- At W = 4 the shifter folds bytes 0 to 3, byte 0 first (R104). -/
theorem wordStep_w4 (r : Word32) (d : Word64) :
    wordStep .w4 r d = byteStep (byteStep (byteStep (byteStep r (byteOf d 0)) (byteOf d 1)) (byteOf d 2)) (byteOf d 3) :=
  rfl

/-- At W = 8 the shifter folds bytes 4 to 7 after the four bytes of W = 4 (R104). -/
theorem wordStep_w8 (r : Word32) (d : Word64) :
    wordStep .w8 r d =
      byteStep (byteStep (byteStep (byteStep (wordStep .w4 r d) (byteOf d 4)) (byteOf d 5)) (byteOf d 6)) (byteOf d 7) :=
  rfl

/-- A zero byte folded into the remainder 0 leaves it 0 (R103). -/
theorem byteStep_zero_zero : byteStep 0 0 = 0 := by decide

/-- Every byte of the word 0 is 0. -/
theorem byteOf_zero (i : Nat) : byteOf 0 i = 0 := BitVec.extractLsb'_zero

/-- The word 0 folded into the remainder 0 leaves it 0: each of its byte steps does (R104). -/
theorem wordStep_zero_zero (W : WordWidth) : wordStep W 0 0 = 0 := by
  have hbyte (i : Nat) : byteStep 0 (byteOf 0 i) = 0 := by rw [byteOf_zero, byteStep_zero_zero]
  exact List.foldl_fixed' hbyte _

/-! ## The statement -/

/-- Settles O14: the operand of form AW at each width, and the shifter's loop written out byte by byte. -/
theorem wordFoldsItsBytesLowFirst : Obligations.WordFoldsItsBytesLowFirst := by
  unfold Obligations.WordFoldsItsBytesLowFirst
  refine ⟨fun a b => ⟨?_, ?_⟩, exec_word, wordStep_w4, wordStep_w8, wordStep_zero_zero⟩
  · rw [decode_word, operandAW_w4]
  · rw [decode_word, operandAW_w8]

end Sys2Proof.Machine
end

section
/-! PROOFS. UPDATE (43_update_command.md R141 to R146): its accept step, and one beat, which folds what it reads, advances
the sequencer and leaves a presented command alone, or raises BUS. -/

namespace Sys2Proof.Machine

/-! ## The accept step -/

/-- UPDATE of length 0 changes nothing (R142). -/
theorem exec_update_zero (base : Word64) (s : State) : exec (.update base 0) s = .next s :=
  (if_pos rfl : execUpdate base 0 s = .next s)

/-- UPDATE of some bytes inside the space starts the sequencer (R141). -/
theorem exec_update_of_le {base len : Word64} {s : State} (hlen : len ≠ 0)
    (hspace : base.toNat + len.toNat ≤ s.cfg.space) :
    exec (.update base len) s = .next (s.startSequencer base.toNat len.toNat) :=
  (if_neg hlen).trans (if_neg (Nat.not_lt.2 hspace))

/-- The beats that are left, one for each full word and one for each residue byte (R143, R144). -/
def State.beatsLeft (s : State) : Nat := s.WORDS + s.BYTES

/-- BUSY is 1 exactly while a beat is left (R25). -/
theorem State.BUSY_eq_true_iff (s : State) : s.BUSY = true ↔ 0 < s.beatsLeft := by
  rw [← Bool.not_eq_false, s.BUSY_eq_false_iff, State.beatsLeft]
  omega

/-- READY is 0 while BUSY is 1 (R28). -/
theorem State.READY_of_BUSY {s : State} (h : s.BUSY = true) : s.READY = false := by
  simp [State.READY, h]

/-- The split into words and residue bytes loses no byte (R140). -/
theorem State.startSequencer_bytesLeft (s : State) (base len : Nat) : (s.startSequencer base len).bytesLeft = len :=
  Nat.div_add_mod len s.cfg.W.bytes

/-- A sequencer started on some bytes is busy: with no word and no residue byte there would be no byte (R141). -/
theorem State.startSequencer_BUSY (s : State) (base : Nat) {len : Nat} (h : len ≠ 0) :
    (s.startSequencer base len).BUSY = true := by
  rw [← Bool.not_eq_false, State.BUSY_eq_false_iff]
  rintro ⟨hwords, hbytes⟩
  have hleft := s.startSequencer_bytesLeft base len
  rw [State.bytesLeft, hwords, hbytes] at hleft
  exact h hleft.symm

/-! ## One beat -/

/-- A word beat folds the word it reads (R143, R146). -/
theorem beat_word {s : State} {bs : List Byte} (hwords : 0 < s.WORDS)
    (hread : s.mem.readBytes s.PTR s.cfg.W.bytes = .ok bs) :
    beat s = .next { s with
      R := wordStep s.cfg.W s.R (composeLE bs), PTR := s.PTR + s.cfg.W.bytes, WORDS := s.WORDS - 1 } := by
  simp only [beat, if_pos hwords, wordBeat, hread]

/-- A byte beat folds the byte it reads (R144, R146). -/
theorem beat_byte {s : State} {b : Byte} (hwords : s.WORDS = 0) (hread : s.mem.read s.PTR = some b) :
    beat s = .next { s with R := byteStep s.R b, PTR := s.PTR + 1, BYTES := s.BYTES - 1 } := by
  simp only [beat, hwords, Nat.lt_irrefl, if_false, byteBeat, hread]

/-- A beat raises BUS with the lowest address it needs that is not readable (R146, R172). -/
theorem beat_bus {s : State} {a : Nat} (hlo : s.PTR ≤ a)
    (hhi : a < s.PTR + (if 0 < s.WORDS then s.cfg.W.bytes else 1)) (hnone : s.mem.read a = none)
    (hbelow : s.mem.readable s.PTR a) : beat s = .next (s.raiseFault .bus (BitVec.ofNat 64 a)) := by
  by_cases hwords : 0 < s.WORDS
  · rw [if_pos hwords] at hhi
    have hread := Memory.readBytes_error_iff.2 ⟨hlo, hhi, hnone, hbelow⟩
    simp only [beat, if_pos hwords, wordBeat, hread]
  · rw [if_neg hwords] at hhi
    obtain rfl : a = s.PTR := by omega
    simp only [beat, if_neg hwords, byteBeat, hnone]

/-- The step at a word beat that finds its bytes (R145, R146). -/
theorem step_of_beating_word {s : State} {bs : List Byte} (h : s.beating = true) (hwords : 0 < s.WORDS)
    (hread : s.mem.readBytes s.PTR s.cfg.W.bytes = .ok bs) :
    step s = .next { s.popTurn with
      R := wordStep s.cfg.W s.R (composeLE bs), PTR := s.PTR + s.cfg.W.bytes, WORDS := s.WORDS - 1 } :=
  (step_of_beating h).trans (beat_word (s := s.popTurn) hwords hread)

/-- The step at a byte beat that finds its byte (R145, R146). -/
theorem step_of_beating_byte {s : State} {b : Byte} (h : s.beating = true) (hwords : s.WORDS = 0)
    (hread : s.mem.read s.PTR = some b) :
    step s = .next { s.popTurn with R := byteStep s.R b, PTR := s.PTR + 1, BYTES := s.BYTES - 1 } :=
  (step_of_beating h).trans (beat_byte (s := s.popTurn) hwords hread)

/-- The step at a beat that finds an unreadable address (R145, R146, R172). -/
theorem step_of_beating_bus {s : State} {a : Nat} (h : s.beating = true) (hlo : s.PTR ≤ a)
    (hhi : a < s.PTR + (if 0 < s.WORDS then s.cfg.W.bytes else 1)) (hnone : s.mem.read a = none)
    (hbelow : s.mem.readable s.PTR a) : step s = .next (s.popTurn.raiseFault .bus (BitVec.ofNat 64 a)) :=
  (step_of_beating h).trans (beat_bus (s := s.popTurn) hlo hhi hnone hbelow)

/-- STATUS of a BUS fault: FAULT at bit 1 and cause 3 at bits 7:4 (R24, R172). -/
theorem State.raiseFault_bus_STATUS (s : State) (v : Word64) : (s.raiseFault .bus v).STATUS = 0x00000032 := by
  rw [State.STATUS, State.raiseFault_CAUSE, State.raiseFault_FAULT, State.raiseFault_BUSY]
  decide

/-! ## The statements -/

/-- Settles O16: the accept step of length 0. -/
theorem zeroLengthUpdateChangesNothing : Obligations.ZeroLengthUpdateChangesNothing := by
  unfold Obligations.ZeroLengthUpdateChangesNothing
  exact exec_update_zero

/-- Settles O17: the accept step starts the sequencer, a started sequencer is busy, and a busy one is not ready. -/
theorem updateStartsTheSequencer : Obligations.UpdateStartsTheSequencer := by
  unfold Obligations.UpdateStartsTheSequencer
  refine ⟨fun base len s hlen hspace => ?_, fun s hleft => ?_⟩
  · have hbusy := s.startSequencer_BUSY base.toNat (BitVec.toNat_ne_iff_ne.2 hlen)
    exact ⟨_, exec_update_of_le hlen hspace, rfl, hbusy, State.READY_of_BUSY hbusy⟩
  · refine State.READY_of_BUSY (s.BUSY_eq_true_iff.2 ?_)
    rw [State.beatsLeft]
    omega

/-- Settles O9: with the turn and RESET given, what is left of a beat's condition is BUSY and FAULT, an accept needs BUSY
at 0, and a beat leaves the command port. -/
theorem commandIsHeldWhileBusy : Obligations.CommandIsHeldWhileBusy := by
  unfold Obligations.CommandIsHeldWhileBusy
  intro s hturn hreset
  have hbeating : s.beating = true ↔ s.BUSY = true ∧ s.FAULT = false := by
    rw [s.beating_iff, and_iff_right hturn, and_iff_right hreset]
  refine ⟨hbeating, fun hbusy => ?_, fun hbusy hfault => ?_⟩
  · simp [State.accepting, State.READY_of_BUSY hbusy]
  · have hbeat := hbeating.2 ⟨hbusy, hfault⟩
    obtain ⟨t, hstep, hvalid, hpresented, -⟩ := exists_step_holding_command hbeat
    exact ⟨step_of_beating hbeat, t, hstep, hvalid, hpresented⟩

/-- Settles O20: the step is the beat, which is a word beat, a byte beat or a BUS fault entry. -/
theorem beatFoldsOrRaisesBus : Obligations.BeatFoldsOrRaisesBus := by
  unfold Obligations.BeatFoldsOrRaisesBus
  refine ⟨fun s bs hbeat hwords hlength hholds => ?_, fun s b => step_of_beating_byte,
    fun s a hbeat hlo hhi hnone hbelow => ?_, fun s hwords hbytes => s.BUSY_eq_false_iff.2 ⟨hwords, hbytes⟩⟩
  · have hread : s.mem.readBytes s.PTR s.cfg.W.bytes = .ok bs := hlength ▸ Memory.readBytes_of_holds hholds
    exact step_of_beating_word hbeat hwords hread
  · exact ⟨_, step_of_beating_bus hbeat hlo hhi hnone hbelow, rfl, rfl, rfl, State.raiseFault_bus_STATUS _ _,
      rfl, rfl, rfl, rfl, rfl, rfl, rfl⟩

end Sys2Proof.Machine
end

section
/-! PROOFS. An UPDATE of readable bytes from its acceptance to its last beat, with no host move left (43_update_command.md
R147). -/

namespace Sys2Proof.Machine

/-! ## Turns and readable bytes -/

/-- With no host move left it is CORE's turn. -/
theorem State.coreTurn_of_hostDone {s : State} (h : s.hostDone = true) : s.coreTurn = true := by
  unfold State.coreTurn
  split
  · rename_i hturns
    simp [State.hostDone, hturns] at h
  · rfl

/-- Taking a turn leaves no host move where there was none. -/
theorem State.hostDone_popTurn {s : State} (h : s.hostDone = true) : s.popTurn.hostDone = true :=
  List.all_eq_true.2 fun u hu => List.all_eq_true.1 h u (List.mem_of_mem_tail hu)

/-- Bytes that are all readable can be read (20_memory.md R52, R54). -/
theorem Memory.exists_readBytes_of_readable {m : Memory} {addr n : Nat} (h : m.readable addr (addr + n)) :
    ∃ bs, m.readBytes addr n = .ok bs := by
  cases hread : m.readBytes addr n with
  | ok bs => exact ⟨bs, rfl⟩
  | error a =>
    obtain ⟨hlo, hhi, hnone, -⟩ := Memory.readBytes_error_iff.1 hread
    exact absurd hnone (h a hlo hhi)

/-! ## The beats -/

/-- `t` is a state of an UPDATE whose buffer ends before `stop`, accepted in `s`: CORE alone moves, nothing has faulted,
the bytes from PTR to `stop` are the ones left and are readable, and what the UPDATE does not write is as in `s`. -/
structure State.Updating (s : State) (stop : Nat) (t : State) : Prop where
  RESET : t.RESET = false
  hostDone : t.hostDone = true
  PTR_add_bytesLeft : t.PTR + t.bytesLeft = stop
  readable : t.mem.readable t.PTR stop
  FAULT : t.FAULT = false
  RESULT : t.RESULT = s.RESULT
  CAUSE : t.CAUSE = s.CAUSE
  FAULT_INFO : t.FAULT_INFO = s.FAULT_INFO
  mem : t.mem = s.mem

/-- While a beat is left, a beat is enabled (R145). -/
theorem State.Updating.beating {s t : State} {stop : Nat} (h : s.Updating stop t) (hleft : 0 < t.beatsLeft) :
    t.beating = true :=
  t.beating_iff.2 ⟨State.coreTurn_of_hostDone h.hostDone, h.RESET, t.BUSY_eq_true_iff.2 hleft, h.FAULT⟩

/-- An UPDATE goes on where the sequencer advances: PTR by as many bytes as the counts go down. -/
theorem State.Updating.advance {s t : State} {stop : Nat} (h : s.Updating stop t) (R : Word32)
    {ptr words bytes : Nat} (hle : t.PTR ≤ ptr)
    (hsum : ptr + (t.cfg.W.bytes * words + bytes) = t.PTR + (t.cfg.W.bytes * t.WORDS + t.BYTES)) :
    s.Updating stop { t.popTurn with R := R, PTR := ptr, WORDS := words, BYTES := bytes } where
  RESET := h.RESET
  hostDone := State.hostDone_popTurn h.hostDone
  PTR_add_bytesLeft := hsum.trans h.PTR_add_bytesLeft
  readable := fun a hlo => h.readable a (hle.trans hlo)
  FAULT := h.FAULT
  RESULT := h.RESULT
  CAUSE := h.CAUSE
  FAULT_INFO := h.FAULT_INFO
  mem := h.mem

/-- A step of an UPDATE of readable bytes is a beat that folds: one beat less is left (R146). -/
theorem State.Updating.exists_step {s t : State} {stop : Nat} (h : s.Updating stop t) (hleft : 0 < t.beatsLeft) :
    ∃ u, step t = .next u ∧ s.Updating stop u ∧ u.beatsLeft + 1 = t.beatsLeft := by
  have hbeat := h.beating hleft
  have hstop := h.PTR_add_bytesLeft
  rw [State.bytesLeft] at hstop
  simp only [State.beatsLeft] at hleft ⊢
  rcases Nat.eq_zero_or_pos t.WORDS with hwords | hwords
  · obtain ⟨b, hread⟩ := Option.ne_none_iff_exists'.1 (h.readable t.PTR (Nat.le_refl _) (by omega))
    refine ⟨_, step_of_beating_byte hbeat hwords hread, h.advance _ (Nat.le_succ _) ?_, ?_⟩
    · rw [State.popTurn_WORDS]
      omega
    · simp only [State.popTurn_WORDS]
      omega
  · have hmul : t.cfg.W.bytes * (t.WORDS - 1) + t.cfg.W.bytes = t.cfg.W.bytes * t.WORDS := by
      rw [← Nat.mul_succ, Nat.succ_eq_add_one, Nat.sub_add_cancel hwords]
    have hword : t.mem.readable t.PTR (t.PTR + t.cfg.W.bytes) := fun a hlo hhi => h.readable a hlo (by omega)
    obtain ⟨bs, hread⟩ := Memory.exists_readBytes_of_readable hword
    refine ⟨_, step_of_beating_word hbeat hwords hread, h.advance _ (Nat.le_add_right _ _) ?_, ?_⟩
    · rw [State.popTurn_BYTES]
      omega
    · simp only [State.popTurn_BYTES]
      omega

/-- An UPDATE of readable bytes takes any number of the beats that are left (R147). -/
theorem State.Updating.exists_run {s t : State} {stop k : Nat} (h : s.Updating stop t) (hk : k ≤ t.beatsLeft) :
    ∃ u, run k t = .next u ∧ s.Updating stop u ∧ u.beatsLeft + k = t.beatsLeft := by
  induction k generalizing t with
  | zero => exact ⟨t, run_zero t, h, rfl⟩
  | succ k ih =>
    obtain ⟨v, hstep, hv, hcount⟩ := h.exists_step (by omega)
    obtain ⟨u, hrun, hu, hcount'⟩ := ih hv (by omega)
    exact ⟨u, (run_succ_of_next hstep).trans hrun, hu, by omega⟩

/-! ## The accept step and the end -/

/-- The accept step of a command executes it (R119). -/
theorem accept_of_decode {s : State} {i : Instr} (h : decode s.cfg.W s.presented = .ok i) :
    accept s = exec i s.consume := by
  simp only [accept, h]

/-- The accept step of an UPDATE of readable bytes inside the space leaves `q + r` beats (R141). -/
theorem step_of_accepting_update {s : State} {base len : Word64} (haccept : s.accepting = true)
    (hdone : s.hostDone = true) (hdecode : decode s.cfg.W s.presented = .ok (.update base len)) (hlen : len ≠ 0)
    (hspace : base.toNat + len.toNat ≤ s.cfg.space)
    (hreadable : s.mem.readable base.toNat (base.toNat + len.toNat)) :
    ∃ t, step s = .next t ∧ s.Updating (base.toNat + len.toNat) t ∧
      t.beatsLeft = len.toNat / s.cfg.W.bytes + len.toNat % s.cfg.W.bytes := by
  obtain ⟨-, hreset, -, hfault, -⟩ := s.accepting_iff.1 haccept
  have hexec := exec_update_of_le (s := s.popTurn.consume) hlen hspace
  have haccepted := accept_of_decode (s := s.popTurn) hdecode
  refine ⟨_, (step_of_accepting haccept).trans (haccepted.trans hexec), ?_, rfl⟩
  exact {
    RESET := hreset
    hostDone := State.hostDone_popTurn hdone
    PTR_add_bytesLeft := congrArg (base.toNat + ·) (State.startSequencer_bytesLeft _ _ _)
    readable := hreadable
    FAULT := hfault
    RESULT := rfl
    CAUSE := rfl
    FAULT_INFO := rfl
    mem := rfl }

/-- With no beat left the UPDATE is complete: both counts are 0 and PTR is at the end of the buffer (R147). -/
theorem State.Updating.complete {s t : State} {stop : Nat} (h : s.Updating stop t) (hleft : t.beatsLeft = 0) :
    t.WORDS = 0 ∧ t.BYTES = 0 ∧ t.BUSY = false ∧ t.PTR = stop ∧ t.READY = true := by
  obtain ⟨hwords, hbytes⟩ := Nat.add_eq_zero_iff.1 hleft
  have hbusy := t.BUSY_eq_false_iff.2 ⟨hwords, hbytes⟩
  have hptr := h.PTR_add_bytesLeft
  rw [State.bytesLeft, hwords, hbytes] at hptr
  exact ⟨hwords, hbytes, hbusy, hptr, t.READY_eq_true_iff.2 ⟨hbusy, h.FAULT⟩⟩

/-! ## The statement -/

/-- Settles O37: the accept step leaves `q + r` beats, each step takes one of them, and with none left the UPDATE is
complete. -/
theorem updateCompletesAfterQPlusRBeats : Obligations.UpdateCompletesAfterQPlusRBeats := by
  unfold Obligations.UpdateCompletesAfterQPlusRBeats
  intro s base len haccept hdone hdecode hlen hspace hreadable
  obtain ⟨t, hstep, ht, hcount⟩ := step_of_accepting_update haccept hdone hdecode hlen hspace hreadable
  have hrun (k : Nat) : run (1 + k) s = run k t := by
    rw [Nat.add_comm, run_succ_of_next hstep]
  rw [← hcount]
  refine ⟨fun k hk => ?_, ?_⟩
  · obtain ⟨u, hu, hupdating, hleft⟩ := ht.exists_run (Nat.le_of_lt hk)
    exact ⟨u, (hrun k).trans hu, hupdating.beating (by omega)⟩
  · obtain ⟨u, hu, hupdating, hleft⟩ := ht.exists_run (Nat.le_refl _)
    obtain ⟨hwords, hbytes, hbusy, hptr, hready⟩ := hupdating.complete (Nat.add_eq_right.1 hleft)
    exact ⟨u, (hrun _).trans hu, hwords, hbytes, hbusy, hptr, hready, hupdating.RESULT, hupdating.FAULT,
      hupdating.CAUSE, hupdating.FAULT_INFO, hupdating.mem⟩

end Sys2Proof.Machine
end

section
/-! PROOFS. RANGE (60_exceptions.md R171): the accept step of an UPDATE whose buffer ends past the top of the space, and
that of one which ends exactly at the top. -/

namespace Sys2Proof.Machine

/-- UPDATE of some bytes past the top of the space enters a RANGE fault (R171). -/
theorem exec_update_of_gt {base len : Word64} {s : State} (hlen : len ≠ 0)
    (hspace : base.toNat + len.toNat > s.cfg.space) :
    exec (.update base len) s = .next (s.raiseFault .range base) :=
  (if_neg hlen).trans (if_pos hspace)

/-- UPDATE of a buffer inside the space, the empty one among them, raises no fault (R141, R142). -/
theorem exists_exec_update_FAULT_eq {base len : Word64} {s : State} (hspace : base.toNat + len.toNat ≤ s.cfg.space) :
    ∃ t, exec (.update base len) s = .next t ∧ t.FAULT = s.FAULT := by
  by_cases hlen : len = 0
  · exact ⟨s, hlen ▸ exec_update_zero base s, rfl⟩
  · exact ⟨_, exec_update_of_le hlen hspace, s.startSequencer_FAULT _ _⟩

/-- STATUS of a RANGE fault: FAULT at bit 1 and cause 2 at bits 7:4 (R24, R171). -/
theorem State.raiseFault_range_STATUS (s : State) (v : Word64) : (s.raiseFault .range v).STATUS = 0x00000022 := by
  rw [State.STATUS, State.raiseFault_CAUSE, State.raiseFault_FAULT, State.raiseFault_BUSY]
  decide

/-- CORE reads no byte while BUSY is 0 (R145, R57). -/
theorem State.beatAddresses_of_not_BUSY {s : State} (h : s.BUSY = false) : s.beatAddresses = [] := by
  rw [State.beatAddresses, h, Bool.false_and, if_neg Bool.false_ne_true]

/-- Settles O18: past the top the accept step is the entry of a RANGE fault, after which nothing is in flight; a buffer
that ends at the top is inside the space. -/
theorem rangeFaults : Obligations.RangeFaults := by
  unfold Obligations.RangeFaults
  refine ⟨fun base len s hlen hspace => ?_, fun base len s htop => exists_exec_update_FAULT_eq htop.le⟩
  have hreads := State.beatAddresses_of_not_BUSY (s.raiseFault_BUSY .range base)
  exact ⟨_, exec_update_of_gt hlen hspace, rfl, rfl, rfl, State.raiseFault_range_STATUS _ _, rfl, rfl, rfl, rfl, rfl,
    hreads, rfl, rfl, rfl, rfl, rfl, rfl, rfl, fun _ => rfl⟩

end Sys2Proof.Machine
end

section
/-! PROOFS. The reset step (70_reset_and_hazards.md R200, R201): which step is one, and what one leaves of an UPDATE. -/

namespace Sys2Proof.Machine

/-- On CORE's turn the only reset is the one that the RESET port asks for (R200). -/
theorem State.resetting_iff_of_coreTurn {s : State} (h : s.coreTurn = true) : s.resetting = true ↔ s.RESET = true := by
  have hnopulse : s.turns.head? ≠ some (.host .pulseReset) := by
    intro hpulse
    obtain ⟨rest, hturns⟩ := List.head?_eq_some_iff.1 hpulse
    simp [State.coreTurn, hturns] at h
  simp [State.resetting, h, hnopulse]

/-- CORE's turn with RESET at 1 is the reset step, whatever else is enabled (R200). -/
theorem coreStep_of_RESET {s : State} (h : s.RESET = true) : coreStep s = .next s.resetStep := if_pos h

/-- A reset, by the level or by the pulse, is the reset step of R200. -/
theorem step_of_resetting {s : State} (h : s.resetting = true) : step s = .next s.popTurn.resetStep := by
  obtain ⟨hturn, hs⟩ | ⟨m, rest, hturns, -, hs⟩ := step_cases s
  · have hreset : s.RESET = true := (State.resetting_iff_of_coreTurn hturn).1 h
    exact hs.trans (coreStep_of_RESET hreset)
  · obtain rfl := (State.resetting_iff_of_host hturns).1 h
    exact hs

/-- No beat is the next step while BUSY is 0 (R145). -/
theorem State.beating_of_not_BUSY {s : State} (h : s.BUSY = false) : s.beating = false := by
  simp [State.beating, h]

/-- Settles O25: the step is the reset step, which clears the counts of words and bytes, so that BUSY is 0 and neither a
beat nor a read is left of the UPDATE. That BUSY was 1 plays no part. -/
theorem resetAbortsTheUpdate : Obligations.ResetAbortsTheUpdate := by
  unfold Obligations.ResetAbortsTheUpdate
  intro s _ hreset
  have hbusy : s.popTurn.resetStep.BUSY = false := State.resetStep_BUSY _
  exact ⟨_, step_of_resetting hreset, hbusy, State.beating_of_not_BUSY hbusy, State.beatAddresses_of_not_BUSY hbusy,
    State.resetStep_R _, State.resetStep_FAULT _, State.resetStep_CAUSE _⟩

end Sys2Proof.Machine
end

section
/-! PROOFS. The encoder and the decoder agree, each way (30_encoding.md R71 to R74, R77). -/

namespace Sys2Proof.Machine

open Sys2Proof.Laws.IgnoredBitsZero (and_lowBits)

/-- From the ports an assembler writes, a command's operands come back as they were, where WORD's fits its field (R74,
R77). -/
theorem assemble_encode {W : WordWidth} {i : Instr} (h : i.wellFormed W = true) :
    assemble W i.op (encode i).A (encode i).B = i := by
  cases i with
  | nop => rfl
  | load s => exact congrArg Instr.load (operandA32_setWidth s)
  | read => rfl
  | byte b => exact congrArg Instr.byte (operandA8_setWidth b)
  | word d => exact congrArg Instr.word (and_lowBits (of_decide_eq_true h))
  | update base len => rfl

/-- Settles O1: the encoding's word selects the command, and its ports hold the operands. -/
theorem decodeOfEncodeIsTheInstruction : Obligations.DecodeOfEncodeIsTheInstruction := by
  unfold Obligations.DecodeOfEncodeIsTheInstruction
  intro W i h
  have hword : decodeOp (encode i).CMD = .ok i.op := decodeOp_cmdWord i.op
  rw [decode_of_decodeOp hword, assemble_encode h]

/-- The low `n` bits of a port, taken out and extended again, are the port with its other bits at 0. -/
theorem setWidth_extractLsb'_eq_and_lowBits (n : Nat) (x : Word64) :
    (x.extractLsb' 0 n).setWidth 64 = x &&& lowBits n := by
  apply BitVec.eq_of_getLsbD_eq
  intro i hi
  simp only [BitVec.getLsbD_setWidth, BitVec.getLsbD_extractLsb', BitVec.getLsbD_and, getLsbD_lowBits, hi, decide_true,
    Bool.true_and, Nat.zero_add, Bool.and_comm]

/-- A port with only its low `8W` bits left fits WORD's field. -/
theorem toNat_operandAW_lt (W : WordWidth) (a : Word64) : (operandAW W a).toNat < 2 ^ (8 * W.bytes) := by
  have hmask : (lowBits (8 * W.bytes)).toNat < 2 ^ (8 * W.bytes) := by cases W <;> decide
  exact lt_of_le_of_lt (by rw [operandAW, BitVec.toNat_and]; exact Nat.and_le_right) hmask

/-- Assembled operands fit their fields (R74, R77). -/
theorem wellFormed_assemble (W : WordWidth) (op : Op) (a b : Word64) : (assemble W op a b).wellFormed W = true := by
  cases op with
  | word => exact decide_eq_true (toNat_operandAW_lt W a)
  | _ => rfl

/-- An assembler writes the used bits of the port A from which a command's operands were assembled (R73, R77). -/
theorem encode_assemble_A (W : WordWidth) (op : Op) (a b : Word64) :
    (encode (assemble W op a b)).A = a &&& usedA W op := by
  cases op with
  | nop => exact BitVec.and_zero.symm
  | load => exact setWidth_extractLsb'_eq_and_lowBits 32 a
  | read => exact BitVec.and_zero.symm
  | byte => exact setWidth_extractLsb'_eq_and_lowBits 8 a
  | word => rfl
  | update => exact (and_lowBits_64 a).symm

/-- An assembler writes the used bits of the port B from which a command's operands were assembled (R73, R77). -/
theorem encode_assemble_B (W : WordWidth) (op : Op) (a b : Word64) :
    (encode (assemble W op a b)).B = b &&& usedB op := by
  cases op with
  | update => exact (and_lowBits_64 b).symm
  | _ => exact BitVec.and_zero.symm

/-- Settles O2: what decodes is a command assembled from the ports, and encoding that writes its used bits back. -/
theorem encodeOfDecodeKeepsEveryUsedBit : Obligations.EncodeOfDecodeKeepsEveryUsedBit := by
  unfold Obligations.EncodeOfDecodeKeepsEveryUsedBit
  intro W c i h
  have hcmd : (encode i).CMD = c.CMD := (CMD_eq_cmdWord_of_decode h).symm
  obtain ⟨op, -, rfl⟩ := decode_eq_ok h
  rw [assemble_op]
  exact ⟨wellFormed_assemble W op c.A c.B, hcmd, encode_assemble_A W op c.A c.B, encode_assemble_B W op c.A c.B⟩

/-- Settles O3: each word's command with its operand form, WORD's written out for each width. -/
theorem sixCommandWordsDecode : Obligations.SixCommandWordsDecode := by
  unfold Obligations.SixCommandWordsDecode
  intro W a b
  have hword4 := (decode_word .w4 a b).trans (by rw [operandAW_w4])
  have hword8 := (decode_word .w8 a b).trans (by rw [operandAW_w8])
  exact ⟨decode_of_cmdWord W .nop a b, decode_of_cmdWord W .load a b, decode_of_cmdWord W .read a b,
    decode_of_cmdWord W .byte a b, hword4, hword8, decode_of_cmdWord W .update a b⟩

end Sys2Proof.Machine
end

section
/-! PROOFS. What a step leaves of the inputs, the command port and the memory: CORE writes none of its inputs
(10_state.md R31, R32), and what the host's moves write is said once for the command port and once for the memory. -/

namespace Sys2Proof.Machine

/-! ## What CORE leaves -/

/-- `t` has the build parameters, the operand ports, the RESET port and the turns of `s`, which CORE only reads. -/
structure State.SameInputs (s t : State) : Prop where
  cfg : t.cfg = s.cfg
  CMD : t.CMD = s.CMD
  A : t.A = s.A
  B : t.B = s.B
  RESET : t.RESET = s.RESET
  turns : t.turns = s.turns

/-- A state has its own inputs. -/
theorem State.SameInputs.refl (s : State) : s.SameInputs s := ⟨rfl, rfl, rfl, rfl, rfl, rfl⟩

/-- Consuming the command leaves the inputs (log 4). -/
theorem State.SameInputs.of_consume {s t : State} (h : s.consume.SameInputs t) : s.SameInputs t :=
  ⟨h.cfg, h.CMD, h.A, h.B, h.RESET, h.turns⟩

/-- The same word and operands are presented on the same inputs. -/
theorem State.SameInputs.presented {s t : State} (h : s.SameInputs t) : t.presented = s.presented := by
  rw [State.presented, State.presented, h.CMD, h.A, h.B]

/-- A beat leaves the inputs (R146). -/
theorem beat_sameInputs {s t : State} (h : beat s = .next t) : s.SameInputs t := by
  obtain ⟨-, bs, -, rfl⟩ | ⟨-, b, -, rfl⟩ | ⟨-, a, -, rfl⟩ | ⟨-, -, rfl⟩ := beat_cases h <;> constructor <;> rfl

/-- A command leaves the inputs (R120 to R122, R130, R131, R140). -/
theorem exec_sameInputs {i : Instr} {s t : State} (h : exec i s = .next t) : s.SameInputs t := by
  obtain ⟨-, rfl⟩ | ⟨v, -, rfl⟩ | ⟨-, rfl⟩ | ⟨b, -, rfl⟩ | ⟨d, -, rfl⟩ | ⟨base, -, rfl⟩ |
    ⟨base, len, -, -, -, rfl⟩ | ⟨base, len, -, -, -, rfl⟩ := exec_cases h <;> constructor <;> rfl

/-- The accept step leaves the inputs (R119, log 4). -/
theorem accept_sameInputs {s t : State} (h : accept s = .next t) : s.SameInputs t := by
  obtain ⟨e, -, rfl⟩ | ⟨i, -, h⟩ := accept_cases h
  · constructor <;> rfl
  · exact (exec_sameInputs h).of_consume

/-- CORE's turn leaves the inputs. -/
theorem coreStep_sameInputs {s t : State} (h : coreStep s = .next t) : s.SameInputs t := by
  obtain ⟨-, rfl⟩ | ⟨-, -, rfl⟩ | ⟨-, -, -, h⟩ | ⟨-, -, -, -, h⟩ | ⟨-, -, -, -, rfl⟩ := coreStep_cases h
  case inl => constructor <;> rfl
  case inr.inr.inl => exact beat_sameInputs h
  case inr.inr.inr.inl => exact accept_sameInputs h
  all_goals exact .refl _

/-- No command writes CMD_VALID: the accept step has lowered it before (R119, log 4). -/
theorem exec_CMD_VALID {i : Instr} {s t : State} (h : exec i s = .next t) : t.CMD_VALID = s.CMD_VALID := by
  obtain ⟨-, rfl⟩ | ⟨v, -, rfl⟩ | ⟨-, rfl⟩ | ⟨b, -, rfl⟩ | ⟨d, -, rfl⟩ | ⟨base, -, rfl⟩ |
    ⟨base, len, -, -, -, rfl⟩ | ⟨base, len, -, -, -, rfl⟩ := exec_cases h <;> rfl

/-- The accept step consumes the command, whichever it is (R119, log 4). -/
theorem accept_CMD_VALID {s t : State} (h : accept s = .next t) : t.CMD_VALID = false := by
  obtain ⟨e, -, rfl⟩ | ⟨i, -, h⟩ := accept_cases h
  · rfl
  · exact exec_CMD_VALID (s := s.consume) h

/-! ## Build parameters and turns over a step -/

/-- A host move leaves the build parameters and the moves to come (R209). -/
theorem hostMove_cfg_turns {m : HostMove} {s t : State} (h : hostMove m s = .next t) :
    t.cfg = s.cfg ∧ t.turns = s.turns := by
  obtain ⟨c, -, -, rfl⟩ | ⟨level, -, rfl⟩ | ⟨-, rfl⟩ | ⟨a, v, -, -, -, rfl⟩ | ⟨a, -, -, -, rfl⟩ := hostMove_cases h <;>
    exact ⟨rfl, rfl⟩

/-- A step leaves the build parameters (R31) and takes its turn off the list. -/
theorem step_cfg_turns {s t : State} (h : step s = .next t) : t.cfg = s.cfg ∧ t.turns = s.turns.tail := by
  obtain ⟨-, hs⟩ | ⟨m, rest, -, -, hs⟩ := step_cases s <;> rw [hs] at h
  · exact ⟨(coreStep_sameInputs h).cfg, (coreStep_sameInputs h).turns⟩
  · exact hostMove_cfg_turns (s := s.popTurn) h

/-- Settles O33: no step changes the build parameters. -/
theorem buildParametersNeverChange : Obligations.BuildParametersNeverChange := by
  unfold Obligations.BuildParametersNeverChange
  intro n s t h
  exact run_keeps (P := fun u => u.cfg = s.cfg) (fun u v hu huv => (step_cfg_turns huv).1.trans hu) rfl h

/-! ## The memory over a step -/

/-- Everything a step can do to the memory: nothing, or, while BUSY is 0, what a host move does at an address inside the
space (R51, R205, R209). -/
theorem step_mem_cases {s t : State} (h : step s = .next t) :
    t.mem = s.mem ∨
    (s.BUSY = false ∧ ∃ a v rest, s.turns = .host (.placeByte a v) :: rest ∧ a < s.cfg.space ∧
      t.mem = s.mem.place a v) ∨
    (s.BUSY = false ∧ ∃ a rest, s.turns = .host (.removeByte a) :: rest ∧ a < s.cfg.space ∧
      t.mem = s.mem.remove a) := by
  obtain ⟨-, hs⟩ | ⟨m, rest, hturns, -, hs⟩ := step_cases s <;> rw [hs] at h
  · exact .inl (coreStep_mem (s := s.popTurn) h)
  · obtain ⟨c, -, -, rfl⟩ | ⟨level, -, rfl⟩ | ⟨-, rfl⟩ | ⟨a, v, rfl, hb, ha, rfl⟩ | ⟨a, rfl, hb, ha, rfl⟩ :=
      hostMove_cases h
    · exact .inl rfl
    · exact .inl rfl
    · exact .inl rfl
    · exact .inr (.inl ⟨hb, a, v, rest, hturns, ha, rfl⟩)
    · exact .inr (.inr ⟨hb, a, rest, hturns, ha, rfl⟩)

/-- Settles O34: a step changes the memory only while BUSY is 0. -/
theorem memoryIsFixedWhileBusy : Obligations.MemoryIsFixedWhileBusy := by
  unfold Obligations.MemoryIsFixedWhileBusy
  intro s t hbusy h
  obtain hkept | ⟨hb, -⟩ | ⟨hb, -⟩ := step_mem_cases h
  · exact hkept
  · simp [hbusy] at hb
  · simp [hbusy] at hb

/-- A change of the memory inside the space and with BUSY at 0 goes on (R51). -/
theorem changeMemory_of_lt {s : State} {a : Nat} (m : Memory) (hbusy : s.BUSY = false) (ha : a < s.cfg.space) :
    changeMemory s a m = .next { s with mem := m } := by
  simp [changeMemory, hbusy, ha]

/-- A change of the memory outside the space faults (R50, log 12). -/
theorem changeMemory_of_ge {s : State} {a : Nat} (m : Memory) (hbusy : s.BUSY = false) (ha : s.cfg.space ≤ a) :
    changeMemory s a m = .fault .noSuchAddress := by
  simp [changeMemory, hbusy, ha]

/-- A change of the memory while BUSY is 1 is refused (logs 10 and 21). -/
theorem changeMemory_of_BUSY {s : State} {a : Nat} (m : Memory) (hbusy : s.BUSY = true) :
    changeMemory s a m = .refused .memoryChangedWhileBusy := by
  simp [changeMemory, hbusy]

/-- Taking the first turn leaves the others. -/
theorem State.popTurn_of_cons {s : State} {u : Turn} {rest : List Turn} (h : s.turns = u :: rest) :
    s.popTurn = { s with turns := rest } := by
  rw [State.popTurn, h, List.tail_cons]

/-- Settles O36: the three cases of a change of the memory, with what a write and a removal do to each address. -/
theorem hostMemoryMoves : Obligations.HostMemoryMoves := by
  unfold Obligations.HostMemoryMoves
  refine ⟨fun s a v rest hturns hbusy ha => ?_, fun s a rest hturns hwf hbusy ha => ?_,
    fun s a v rest hturns hbusy ha => ?_, fun s a v rest hturns hbusy => ?_⟩
  · exact ⟨_, (step_of_host hturns).trans (changeMemory_of_lt (s := s.popTurn) _ hbusy ha),
      Memory.read_place_same s.mem a v, fun x hx => Memory.read_place_other s.mem v hx,
      by rw [State.popTurn_of_cons hturns]⟩
  · exact ⟨_, (step_of_host hturns).trans (changeMemory_of_lt (s := s.popTurn) _ hbusy ha),
      Memory.read_remove_same a hwf, fun x hx => Memory.read_remove_other s.mem hx,
      by rw [State.popTurn_of_cons hturns]⟩
  · rcases hturns with hturns | hturns <;>
      exact (step_of_host hturns).trans (changeMemory_of_ge (s := s.popTurn) _ hbusy ha)
  · rcases hturns with hturns | hturns <;>
      exact (step_of_host hturns).trans (changeMemory_of_BUSY (s := s.popTurn) _ hbusy)

/-! ## The command port over a step -/

/-- Everything a step can do to the command port: nothing, or take the presented command, or, by a host move, present
one that is the presented one if there is one (R32, R119; logs 4 and 11). -/
theorem step_port_cases {s t : State} (h : step s = .next t) :
    (t.CMD_VALID = s.CMD_VALID ∧ t.presented = s.presented) ∨
    (s.accepting = true ∧ t.CMD_VALID = false ∧ t.presented = s.presented) ∨
    ∃ c rest, s.turns = .host (.present c) :: rest ∧ (s.CMD_VALID = true → s.presented = c) ∧
      t.CMD_VALID = true ∧ t.presented = c := by
  obtain ⟨hturn, hs⟩ | ⟨m, rest, hturns, -, hs⟩ := step_cases s <;> rw [hs] at h
  · have hpresented : t.presented = s.presented := (coreStep_sameInputs h).presented
    obtain ⟨-, rfl⟩ | ⟨-, -, rfl⟩ | ⟨-, -, -, h⟩ | ⟨hr, hf, hb, hv, h⟩ | ⟨-, -, -, -, rfl⟩ := coreStep_cases h
    case inr.inr.inl => exact .inl (beat_commandPort (s := s.popTurn) h)
    case inr.inr.inr.inl =>
      exact .inr (.inl ⟨s.accepting_iff.2 ⟨hturn, hr, hb, hf, hv⟩, accept_CMD_VALID h, hpresented⟩)
    all_goals exact .inl ⟨rfl, rfl⟩
  · obtain ⟨c, rfl, hc, rfl⟩ | ⟨level, -, rfl⟩ | ⟨-, rfl⟩ | ⟨a, v, -, -, -, rfl⟩ | ⟨a, -, -, -, rfl⟩ :=
      hostMove_cases h
    case inl => exact .inr (.inr ⟨c, rest, hturns, hc, rfl, rfl⟩)
    all_goals exact .inl ⟨rfl, rfl⟩

/-- A presented command stays as it is over every step but the one that accepts it (R32, log 11). -/
theorem step_keeps_presented_or_accepting {s t : State} (h : step s = .next t) (hv : s.CMD_VALID = true) :
    (t.CMD_VALID = true ∧ t.presented = s.presented) ∨ s.accepting = true := by
  obtain ⟨hvalid, hpresented⟩ | ⟨ha, -⟩ | ⟨c, rest, -, hc, hvalid, hpresented⟩ := step_port_cases h
  · exact .inl ⟨hvalid.trans hv, hpresented⟩
  · exact .inr ha
  · exact .inl ⟨hvalid, hpresented.trans (hc hv).symm⟩

/-- Settles O35: the command port over a step. -/
theorem portsStayStableUntilAccepted : Obligations.PortsStayStableUntilAccepted := by
  unfold Obligations.PortsStayStableUntilAccepted
  exact fun s t => step_keeps_presented_or_accepting

/-- Settles O8: a command that is no longer presented was accepted, and an accept needs READY at 1 and CORE's turn. -/
theorem commandsAreTakenOnlyWhenReady : Obligations.CommandsAreTakenOnlyWhenReady := by
  unfold Obligations.CommandsAreTakenOnlyWhenReady
  refine ⟨State.READY_eq_true_iff, fun s t h hv ht => ?_⟩
  obtain ⟨hvalid, -⟩ | ha := step_keeps_presented_or_accepting h hv
  · simp [ht] at hvalid
  · obtain ⟨hturn, -, hb, hf, -⟩ := s.accepting_iff.1 ha
    exact ⟨s.READY_eq_true_iff.2 ⟨hb, hf⟩, hturn⟩

end Sys2Proof.Machine
end

section
/-! PROOFS. The invariant of the reachable states: every step keeps its half about the memory and its half about the
registers, and the reset state has it. -/

namespace Sys2Proof.Machine

/-! ## The half about the registers -/

/-- The half of the invariant that speaks of the registers and the size of the space (10_state.md R25, R27, R30). -/
structure State.RegistersInv (s : State) : Prop where
  inSpace : s.PTR + s.bytesLeft ≤ s.cfg.space
  wordsRange : s.WORDS ≤ (2 ^ 64 - 1) / s.cfg.W.bytes
  bytesRange : s.BYTES < s.cfg.W.bytes
  causeIffFault : s.CAUSE ≠ .none ↔ s.FAULT = true
  faultIdle : s.FAULT = true → s.BUSY = false

/-- The invariant has the half about the registers. -/
theorem State.Inv.registers {s : State} (h : s.Inv) : s.RegistersInv :=
  ⟨h.inSpace, h.wordsRange, h.bytesRange, h.causeIffFault, h.faultIdle⟩

/-- The same registers with the same build parameters are as well in their ranges. -/
theorem State.RegistersInv.of_sameRegisters {s t : State} (h : s.RegistersInv) (hst : s.SameRegisters t) :
    t.RegistersInv := by
  obtain ⟨hcfg, -, -, hfault, hcause, -, hptr, hwords, hbytes⟩ := hst
  constructor
  · rw [State.bytesLeft, hcfg, hptr, hwords, hbytes]; exact h.inSpace
  · rw [hcfg, hwords]; exact h.wordsRange
  · rw [hcfg, hbytes]; exact h.bytesRange
  · rw [hcause, hfault]; exact h.causeIffFault
  · rw [hfault, State.BUSY, hwords, hbytes]; exact h.faultIdle

/-- With nothing in flight, PTR inside the space and CAUSE in agreement with FAULT, the registers are in their ranges.
-/
theorem State.RegistersInv.of_idle {s : State} (hbusy : s.BUSY = false) (hptr : s.PTR ≤ s.cfg.space)
    (hcause : s.CAUSE ≠ .none ↔ s.FAULT = true) : s.RegistersInv := by
  obtain ⟨hwords, hbytes⟩ := s.BUSY_eq_false_iff.1 hbusy
  refine ⟨?_, ?_, ?_, hcause, fun _ => hbusy⟩
  · rw [State.bytesLeft, hwords, hbytes]
    exact hptr
  · rw [hwords]
    exact Nat.zero_le _
  · rw [hbytes]
    exact s.cfg.W.bytes_pos

/-- The free value that fault entry gives PTR is in the register's range (R30, R173, log 8). -/
theorem State.raiseFault_PTR_le (s : State) (c : Cause) (info : Word64) : (s.raiseFault c info).PTR ≤ s.cfg.space :=
  Nat.le_of_lt_succ (Nat.mod_lt _ (Nat.succ_pos _))

/-- Fault entry with a cause leaves the registers in their ranges (R173). -/
theorem State.RegistersInv.raiseFault (s : State) {c : Cause} (hc : c ≠ .none) (info : Word64) :
    (s.raiseFault c info).RegistersInv :=
  .of_idle rfl (s.raiseFault_PTR_le c info) (iff_of_true hc rfl)

/-- A reset leaves the registers in their ranges (R200). -/
theorem State.RegistersInv.resetStep (s : State) : s.resetStep.RegistersInv :=
  .of_idle rfl (Nat.zero_le _) (iff_of_false (fun h => h rfl) Bool.false_ne_true)

/-- Where FAULT is 0, the sequencer may go on anywhere inside the space. -/
theorem State.RegistersInv.of_not_FAULT {s t : State} (h : s.RegistersInv) (hs : s.FAULT = false)
    (hcause : t.CAUSE = s.CAUSE) (hfault : t.FAULT = s.FAULT) (hspace : t.PTR + t.bytesLeft ≤ t.cfg.space)
    (hwords : t.WORDS ≤ (2 ^ 64 - 1) / t.cfg.W.bytes) (hbytes : t.BYTES < t.cfg.W.bytes) : t.RegistersInv :=
  ⟨hspace, hwords, hbytes, by rw [hcause, hfault]; exact h.causeIffFault, by simp [hfault, hs]⟩

/-- Of the bytes left, the next word beat takes `W` (R143). -/
theorem State.bytesLeft_of_WORDS_pos {s : State} (h : 0 < s.WORDS) :
    s.bytesLeft = s.cfg.W.bytes + (s.cfg.W.bytes * (s.WORDS - 1) + s.BYTES) := by
  have hmul : s.cfg.W.bytes * (s.WORDS - 1) + s.cfg.W.bytes = s.cfg.W.bytes * s.WORDS := by
    rw [← Nat.mul_succ, Nat.succ_eq_add_one, Nat.sub_add_cancel h]
  rw [State.bytesLeft]
  omega

/-- With no word left, the next byte beat takes one of the bytes left (R144). -/
theorem State.bytesLeft_of_WORDS_eq_zero {s : State} (h : s.WORDS = 0) (hbusy : s.BUSY = true) :
    s.bytesLeft = 1 + (s.BYTES - 1) := by
  have hleft := s.BUSY_eq_true_iff.1 hbusy
  rw [State.beatsLeft, h] at hleft
  rw [State.bytesLeft, h]
  omega

/-- A beat keeps the registers in their ranges: it advances PTR by as many bytes as it takes off the counts (R146). -/
theorem State.RegistersInv.beat {s t : State} (h : s.RegistersInv) (hfault : s.FAULT = false) (hbusy : s.BUSY = true)
    (hbeat : Machine.beat s = .next t) : t.RegistersInv := by
  have hspace := h.inSpace
  obtain ⟨hwords, bs, -, rfl⟩ | ⟨hwords, b, -, rfl⟩ | ⟨-, a, -, rfl⟩ | ⟨-, -, rfl⟩ := beat_cases hbeat
  · rw [State.bytesLeft_of_WORDS_pos hwords, ← Nat.add_assoc] at hspace
    exact h.of_not_FAULT hfault rfl rfl hspace ((Nat.sub_le _ _).trans h.wordsRange) h.bytesRange
  · rw [State.bytesLeft_of_WORDS_eq_zero hwords hbusy, ← Nat.add_assoc] at hspace
    refine h.of_not_FAULT hfault rfl rfl ?_ h.wordsRange ((Nat.sub_le _ _).trans_lt h.bytesRange)
    simpa only [State.bytesLeft, hwords, Nat.mul_zero, Nat.zero_add] using hspace
  · exact .raiseFault s (by decide) _
  · exact .raiseFault s (by decide) _

/-- A command keeps the registers in their ranges: UPDATE starts the sequencer only inside the space (R141, R171). -/
theorem State.RegistersInv.exec {i : Instr} {s t : State} (h : s.RegistersInv) (hfault : s.FAULT = false)
    (hexec : Machine.exec i s = .next t) : t.RegistersInv := by
  obtain ⟨-, rfl⟩ | ⟨v, -, rfl⟩ | ⟨-, rfl⟩ | ⟨b, -, rfl⟩ | ⟨d, -, rfl⟩ | ⟨base, -, rfl⟩ |
    ⟨base, len, -, -, -, rfl⟩ | ⟨base, len, -, -, hspace, rfl⟩ := exec_cases hexec
  case inr.inr.inr.inr.inr.inr.inl => exact .raiseFault s (by decide) _
  case inr.inr.inr.inr.inr.inr.inr =>
    have hlen : len.toNat ≤ 2 ^ 64 - 1 := Nat.le_pred_of_lt len.isLt
    refine h.of_not_FAULT hfault rfl rfl ?_ (Nat.div_le_div_right hlen) (Nat.mod_lt _ s.cfg.W.bytes_pos)
    rw [State.startSequencer_bytesLeft]
    exact hspace
  all_goals exact h.of_not_FAULT hfault rfl rfl h.inSpace h.wordsRange h.bytesRange

/-- The accept step keeps the registers in their ranges (R119). -/
theorem State.RegistersInv.accept {s t : State} (h : s.RegistersInv) (hfault : s.FAULT = false)
    (haccept : Machine.accept s = .next t) : t.RegistersInv := by
  obtain ⟨e, -, rfl⟩ | ⟨i, -, hexec⟩ := accept_cases haccept
  · exact .raiseFault _ (by decide) _
  · have hconsume : s.consume.RegistersInv :=
      h.of_not_FAULT hfault rfl rfl h.inSpace h.wordsRange h.bytesRange
    exact hconsume.exec hfault hexec

/-- Every step keeps the registers in their ranges. -/
theorem State.RegistersInv.step {s t : State} (h : s.RegistersInv) (hstep : Machine.step s = .next t) :
    t.RegistersInv := by
  have hpop : s.popTurn.RegistersInv := h.of_sameRegisters s.sameRegisters_popTurn
  obtain ⟨-, rfl⟩ | ⟨hb, hbeat⟩ | ⟨ha, haccept⟩ | hsame := step_next_cases hstep
  · exact .resetStep _
  · obtain ⟨-, -, hbusy, hfault⟩ := s.beating_iff.1 hb
    exact hpop.beat hfault hbusy hbeat
  · obtain ⟨-, -, -, hfault, -⟩ := s.accepting_iff.1 ha
    exact hpop.accept hfault haccept
  · exact h.of_sameRegisters hsame

/-! ## The half about the memory -/

/-- Every step keeps the canonical form of the memory. -/
theorem step_keeps_mem_wf {s t : State} (h : s.mem.wf = true) (hstep : step s = .next t) : t.mem.wf = true := by
  obtain hmem | ⟨-, a, v, rest, -, -, hmem⟩ | ⟨-, a, rest, -, -, hmem⟩ := step_mem_cases hstep <;> rw [hmem]
  · exact h
  · exact Memory.wf_place a v h
  · exact Memory.wf_remove a h

/-- After a removal no address is readable that was not before. -/
theorem Memory.read_ne_none_of_remove {m : Memory} {a x : Nat} (hwf : m.wf = true)
    (h : (m.remove a).read x ≠ none) : m.read x ≠ none := by
  by_cases hx : x = a
  · exact absurd (hx ▸ Memory.read_remove_same a hwf) h
  · rwa [Memory.read_remove_other m hx] at h

/-- Every step keeps the readable addresses inside the space: the host writes only there (R50, log 12). -/
theorem step_keeps_mem_inSpace {s t : State} (hwf : s.mem.wf = true)
    (h : ∀ x, s.mem.read x ≠ none → x < s.cfg.space) (hstep : step s = .next t) :
    ∀ x, t.mem.read x ≠ none → x < t.cfg.space := by
  intro x hx
  rw [(step_cfg_turns hstep).1]
  obtain hmem | ⟨-, a, v, rest, -, ha, hmem⟩ | ⟨-, a, rest, -, -, hmem⟩ := step_mem_cases hstep <;> rw [hmem] at hx
  · exact h x hx
  · by_cases hxa : x = a
    · exact hxa ▸ ha
    · rw [Memory.read_place_other _ _ hxa] at hx
      exact h x hx
  · exact h x (Memory.read_ne_none_of_remove hwf hx)

/-! ## The statements -/

/-- Settles O27: every step keeps both halves. -/
theorem everyStepKeepsTheInvariant : Obligations.EveryStepKeepsTheInvariant := by
  unfold Obligations.EveryStepKeepsTheInvariant
  intro s t h hstep
  obtain ⟨hspace, hwords, hbytes, hcause, hidle⟩ := h.registers.step hstep
  exact ⟨step_keeps_mem_wf h.memCanonical hstep, step_keeps_mem_inSpace h.memCanonical h.memInSpace hstep,
    hspace, hwords, hbytes, hcause, hidle⟩

/-- Settles O28: the reset state has no readable byte and nothing in flight. -/
theorem resetHasTheInvariant : Obligations.ResetHasTheInvariant := by
  unfold Obligations.ResetHasTheInvariant
  obtain ⟨hspace, hwords, hbytes, hcause, hidle⟩ : State.reset.RegistersInv := .resetStep State.reset
  exact ⟨rfl, fun _ h => absurd rfl h, hspace, hwords, hbytes, hcause, hidle⟩

/-- Settles O26: each register's reset value. -/
theorem launchState : Obligations.LaunchState := by
  unfold Obligations.LaunchState
  exact ⟨rfl, rfl, State.resetStep_STATUS State.reset, rfl, rfl, rfl, State.resetStep_READY State.reset, rfl⟩

/-! ## STATUS -/

/-- The fields of STATUS at their bits, the reserved bits 0 (R24). -/
theorem State.STATUS_fields (s : State) :
    s.STATUS.getLsbD 0 = s.BUSY ∧ s.STATUS.getLsbD 1 = s.FAULT ∧ s.STATUS.extractLsb' 2 2 = 0 ∧
      s.STATUS.extractLsb' 4 4 = s.CAUSE.code ∧ s.STATUS.extractLsb' 8 24 = 0 := by
  rw [State.STATUS]
  generalize s.CAUSE.code = code, s.FAULT = fault, s.BUSY = busy
  refine ⟨?_, ?_, ?_, ?_, ?_⟩
  all_goals revert code fault busy; decide

/-- STATUS with FAULT at 0 and no cause: 1 while BUSY is 1, 0 otherwise (R24). -/
theorem State.STATUS_of_not_FAULT {s : State} (hfault : s.FAULT = false) (hcause : s.CAUSE = .none) :
    s.STATUS = if s.BUSY = true then 0x00000001 else 0x00000000 := by
  rw [State.STATUS, hfault, hcause]
  cases s.BUSY <;> decide

/-- STATUS with FAULT at 1, BUSY at 0 and a cause: 2 and the cause's code at bits 7:4 (R24, R27). -/
theorem State.STATUS_of_FAULT {s : State} (hfault : s.FAULT = true) (hbusy : s.BUSY = false)
    (hcause : s.CAUSE ≠ .none) :
    s.STATUS = 0x00000012 ∨ s.STATUS = 0x00000022 ∨ s.STATUS = 0x00000032 := by
  rw [State.STATUS, hfault, hbusy]
  cases hc : s.CAUSE with
  | none => exact absurd hc hcause
  | illegalCmd => exact .inl (by decide)
  | range => exact .inr (.inl (by decide))
  | bus => exact .inr (.inr (by decide))

/-- Settles O29: the fields of STATUS, and its values without and with a fault, which the invariant ties to CAUSE and
BUSY. -/
theorem statusHoldsOneOfFiveValues : Obligations.StatusHoldsOneOfFiveValues := by
  unfold Obligations.StatusHoldsOneOfFiveValues
  refine ⟨State.STATUS_fields, fun s h => ?_⟩
  cases hfault : s.FAULT with
  | false =>
    have hcause : s.CAUSE = .none := by
      by_contra hc
      exact Bool.false_ne_true (hfault.symm.trans (h.causeIffFault.1 hc))
    rw [s.STATUS_of_not_FAULT hfault hcause]
    split
    · exact .inr (.inl rfl)
    · exact .inl rfl
  | true =>
    exact .inr (.inr (s.STATUS_of_FAULT hfault (h.faultIdle hfault) (h.causeIffFault.2 hfault)))

end Sys2Proof.Machine
end

section
/-! PROOFS. Legal states (60_exceptions.md R176): what is readable stays readable, what is presented stays legal, and
with that no beat and no accept step raises a fault. -/

namespace Sys2Proof

namespace Machine

/-! ## Readable bytes and legal commands where bytes are added -/

/-- Every address readable in `m` is readable in `m'`. -/
def Memory.Extends (m' m : Memory) : Prop := ∀ a, m.read a ≠ none → m'.read a ≠ none

/-- A memory extends itself. -/
theorem Memory.Extends.refl (m : Memory) : m.Extends m := fun _ h => h

/-- A write takes no address out of `Readable`. -/
theorem Memory.extends_place (m : Memory) (x : Nat) (v : Byte) : (m.place x v).Extends m := by
  intro a ha
  by_cases hx : a = x
  · rw [hx, Memory.read_place_same]
    exact Option.some_ne_none v
  · rwa [Memory.read_place_other m v hx]

/-- A readable range stays readable where no address is taken out of `Readable`. -/
theorem Memory.Extends.readable {m m' : Memory} (h : m'.Extends m) {lo hi : Nat} (hr : m.readable lo hi) :
    m'.readable lo hi :=
  fun a hlo hhi => h a (hr a hlo hhi)

/-- A part of a readable range is readable. -/
theorem Memory.readable.subrange {m : Memory} {lo hi lo' hi' : Nat} (h : m.readable lo hi) (hlo : lo ≤ lo')
    (hhi : hi' ≤ hi) : m.readable lo' hi' :=
  fun a ha ha' => h a (hlo.trans ha) (ha'.trans_le hhi)

end Machine

/-- A legal command stays legal where no address is taken out of `Readable`. -/
theorem Command.legal.extend {cfg : Config} {m m' : Machine.Memory} {c : Command} (h : c.legal cfg m)
    (hm : m'.Extends m) : c.legal cfg m' := by
  obtain ⟨i, hi, hupdate⟩ := h
  exact ⟨i, hi, fun base len hb hl => (hupdate base len hb hl).imp id hm.readable⟩

/-- A legal turn stays legal where no address is taken out of `Readable`. -/
theorem Turn.legal.extend {cfg : Config} {m m' : Machine.Memory} {u : Turn} (h : u.legal cfg m)
    (hm : m'.Extends m) : u.legal cfg m' := by
  match u, h with
  | .core, _ => trivial
  | .host (.present _), h => exact Command.legal.extend h hm
  | .host (.driveReset _), _ => trivial
  | .host .pulseReset, _ => trivial
  | .host (.placeByte _ _), _ => trivial

namespace Machine

/-! ## No fault is raised -/

/-- FAULT is 0 and the bytes still to fold are readable. -/
structure State.FoldsReadable (s : State) : Prop where
  notFaulted : s.FAULT = false
  readable : s.mem.readable s.PTR (s.PTR + s.bytesLeft)

/-- A legal state has FAULT at 0 and its bytes in flight readable. -/
theorem State.Legal.foldsReadable {s : State} (h : s.Legal) : s.FoldsReadable :=
  ⟨h.notFaulted, h.inFlightReadable⟩

/-- With FAULT at 0 and nothing in flight there is no byte to fold. -/
theorem State.FoldsReadable.of_idle {s : State} (hfault : s.FAULT = false) (hbusy : s.BUSY = false) :
    s.FoldsReadable := by
  obtain ⟨hwords, hbytes⟩ := s.BUSY_eq_false_iff.1 hbusy
  refine ⟨hfault, fun a hlo hhi => ?_⟩
  rw [State.bytesLeft, hwords, hbytes] at hhi
  omega

/-- The same registers over a memory that has no fewer readable bytes. -/
theorem State.FoldsReadable.of_sameRegisters {s t : State} (h : s.FoldsReadable) (hst : s.SameRegisters t)
    (hm : t.mem.Extends s.mem) : t.FoldsReadable := by
  refine ⟨hst.FAULT.trans h.notFaulted, hm.readable ?_⟩
  rw [State.bytesLeft, hst.cfg, hst.PTR, hst.WORDS, hst.BYTES]
  exact h.readable

/-- A beat over readable bytes raises no fault, and leaves only bytes that were left before (R146). -/
theorem State.FoldsReadable.beat {s t : State} (h : s.FoldsReadable) (hbusy : s.BUSY = true)
    (hbeat : Machine.beat s = .next t) : t.FoldsReadable := by
  have hreadable := h.readable
  obtain ⟨hwords, bs, -, rfl⟩ | ⟨hwords, b, -, rfl⟩ | ⟨hwords, a, hread, -⟩ | ⟨hwords, hread, -⟩ := beat_cases hbeat
  · rw [State.bytesLeft_of_WORDS_pos hwords, ← Nat.add_assoc] at hreadable
    exact ⟨h.notFaulted, hreadable.subrange (Nat.le_add_right _ _) (Nat.le_refl _)⟩
  · rw [State.bytesLeft_of_WORDS_eq_zero hwords hbusy, ← Nat.add_assoc] at hreadable
    refine ⟨h.notFaulted, hreadable.subrange (Nat.le_succ _) (le_of_eq ?_)⟩
    simp only [State.bytesLeft, hwords, Nat.mul_zero, Nat.zero_add]
  · obtain ⟨hlo, hhi, hnone, -⟩ := Memory.readBytes_error_iff.1 hread
    rw [State.bytesLeft_of_WORDS_pos hwords] at hreadable
    exact absurd hnone (hreadable a hlo (by omega))
  · rw [State.bytesLeft_of_WORDS_eq_zero hwords hbusy] at hreadable
    exact absurd hread (hreadable s.PTR (Nat.le_refl _) (by omega))

/-- The accept step of a legal command raises no fault, and an UPDATE starts on readable bytes (R176). -/
theorem State.FoldsReadable.accept {s t : State} (hfault : s.FAULT = false) (hbusy : s.BUSY = false)
    (hlegal : s.presented.legal s.cfg s.mem) (haccept : Machine.accept s = .next t) : t.FoldsReadable := by
  obtain ⟨i, hi, hupdate⟩ := hlegal
  rw [accept_of_decode hi] at haccept
  obtain ⟨-, rfl⟩ | ⟨v, -, rfl⟩ | ⟨-, rfl⟩ | ⟨b, -, rfl⟩ | ⟨d, -, rfl⟩ | ⟨base, -, rfl⟩ |
    ⟨base, len, hb, hl, hspace, -⟩ | ⟨base, len, hb, hl, -, rfl⟩ := exec_cases haccept
  case inr.inr.inr.inr.inr.inr.inl => exact absurd hspace (Nat.not_lt.2 (hupdate base len hb hl).1)
  case inr.inr.inr.inr.inr.inr.inr =>
    refine ⟨hfault, ?_⟩
    rw [State.startSequencer_bytesLeft]
    exact (hupdate base len hb hl).2
  all_goals exact .of_idle hfault hbusy

/-! ## Every step -/

/-- A step from a legal state takes no address out of `Readable`. -/
theorem State.Legal.extends_mem {s t : State} (h : s.Legal) (hstep : step s = .next t) : t.mem.Extends s.mem := by
  obtain hmem | ⟨-, a, v, rest, -, -, hmem⟩ | ⟨-, a, rest, hturns, -, -⟩ := step_mem_cases hstep
  · rw [hmem]
    exact .refl _
  · rw [hmem]
    exact Memory.extends_place _ _ _
  · exact absurd (h.turnsLegal (.host (.removeByte a)) (hturns ▸ List.mem_cons_self)) not_false

/-- A step from a legal state raises no fault and leaves only readable bytes to fold. -/
theorem State.Legal.foldsReadable_step {s t : State} (h : s.Legal) (hstep : step s = .next t) : t.FoldsReadable := by
  have hpop : s.popTurn.FoldsReadable := h.foldsReadable.of_sameRegisters s.sameRegisters_popTurn (.refl _)
  obtain ⟨-, rfl⟩ | ⟨hb, hbeat⟩ | ⟨ha, haccept⟩ | hsame := step_next_cases hstep
  · exact .of_idle rfl rfl
  · obtain ⟨-, -, hbusy, -⟩ := s.beating_iff.1 hb
    exact hpop.beat hbusy hbeat
  · obtain ⟨-, -, hbusy, hfault, hvalid⟩ := s.accepting_iff.1 ha
    exact .accept (s := s.popTurn) hfault hbusy (h.presentedLegal hvalid) haccept
  · exact h.foldsReadable.of_sameRegisters hsame (h.extends_mem hstep)

/-- A command presented after a step from a legal state is legal: it was presented before, or the step's turn is a legal
one that presents it. -/
theorem State.Legal.presentedLegal_step {s t : State} (h : s.Legal) (hstep : step s = .next t)
    (hvalid : t.CMD_VALID = true) : t.presented.legal s.cfg s.mem := by
  obtain ⟨hkept, hpresented⟩ | ⟨-, hconsumed, -⟩ | ⟨c, rest, hturns, -, -, hpresented⟩ := step_port_cases hstep
  · exact hpresented ▸ h.presentedLegal (hkept.symm.trans hvalid)
  · simp [hconsumed] at hvalid
  · exact hpresented ▸ h.turnsLegal (.host (.present c)) (hturns ▸ List.mem_cons_self)

/-- Settles O55: no fault is raised, and every command and turn that is still to come was legal before. -/
theorem everyStepKeepsLegalStatesLegal : Obligations.EveryStepKeepsLegalStatesLegal := by
  unfold Obligations.EveryStepKeepsLegalStatesLegal
  intro s t h hstep
  obtain ⟨hcfg, hturns⟩ := step_cfg_turns hstep
  obtain ⟨hfault, hreadable⟩ := h.foldsReadable_step hstep
  have hm := h.extends_mem hstep
  refine ⟨hfault, hreadable, fun hvalid => ?_, fun u hu => ?_⟩ <;> rw [hcfg]
  · exact (h.presentedLegal_step hstep hvalid).extend hm
  · exact (h.turnsLegal u (List.mem_of_mem_tail (hturns ▸ hu))).extend hm

/-- Settles O44: a run keeps a legal state legal, and in a legal state FAULT is 0. -/
theorem legalSequencesNeverFault : Obligations.LegalSequencesNeverFault := by
  unfold Obligations.LegalSequencesNeverFault
  intro s hfault hreadable hpresented hturns n t hrun
  have ht : t.Legal := run_keeps (P := State.Legal) everyStepKeepsLegalStatesLegal
    ⟨hfault, hreadable, hpresented, hturns⟩ hrun
  exact ht.notFaulted

end Machine

end Sys2Proof
end

section
/-! PROOFS. The fold commands over R (42_fold_commands.md R130 to R132), the frame of every command, and which steps
write R (10_state.md R22). -/

namespace Sys2Proof.Machine

/-! ## BYTE and WORD -/

/-- BYTE folds its operand into the remainder (R130). -/
theorem exec_byte (b : Byte) (s : State) : exec (.byte b) s = .next (s.setR (byteStep s.R b)) := rfl

/-- Settles O13: the decoding of the word 3 and the execution of BYTE. -/
theorem byteFoldsOneByte : Obligations.ByteFoldsOneByte := by
  unfold Obligations.ByteFoldsOneByte
  exact ⟨fun W a b => decode_of_cmdWord W .byte a b, exec_byte⟩

/-- A nonzero remainder that a zero byte leaves as it is (R103). -/
theorem byteStep_fixed_by_zero : byteStep 0xFCA42DAF 0 = 0xFCA42DAF := by decide

/-- Refutes O54: BYTE of 0 leaves the remainder 0xFCA42DAF, which is not 0. -/
theorem not_zeroByteChangesEveryNonzeroRemainder : ¬ Obligations.ZeroByteChangesEveryNonzeroRemainder := by
  unfold Obligations.ZeroByteChangesEveryNonzeroRemainder
  intro h
  have hkept : byteStep (State.reset.setR 0xFCA42DAF).R 0 = (State.reset.setR 0xFCA42DAF).R := byteStep_fixed_by_zero
  exact h (State.reset.setR 0xFCA42DAF) _ (exec_byte 0 _) (by decide) hkept

/-- The first `n` byte steps of the shifter (R104). -/
def foldBytesOf (r : Word32) (d : Word64) (n : Nat) : Word32 :=
  (List.range n).foldl (fun x i => byteStep x (byteOf d i)) r

/-- The shifter takes `W` byte steps (R104). -/
theorem wordStep_eq_foldBytesOf (W : WordWidth) (r : Word32) (d : Word64) : wordStep W r d = foldBytesOf r d W.bytes :=
  rfl

/-- One byte step more. -/
theorem foldBytesOf_succ (r : Word32) (d : Word64) (n : Nat) :
    foldBytesOf r d (n + 1) = byteStep (foldBytesOf r d n) (byteOf d n) := by
  rw [foldBytesOf, foldBytesOf, List.range_succ, List.foldl_append]
  rfl

/-- States that follow one another by BYTE of the bytes of `d` differ from the first only in R, the fold of the bytes so
far (R132). -/
theorem eq_setR_foldBytesOf {d : Word64} {f : Nat → State} {m : Nat}
    (h : ∀ i, i < m → exec (.byte (byteOf d i)) (f i) = .next (f (i + 1))) {n : Nat} (hn : n ≤ m) :
    f n = (f 0).setR (foldBytesOf (f 0).R d n) := by
  induction n with
  | zero => rfl
  | succ n ih =>
    have hbyte := h n hn
    rw [exec_byte, ih (Nat.le_of_succ_le hn), State.setR_R, ← foldBytesOf_succ] at hbyte
    cases hnext : f (n + 1)
    rw [hnext] at hbyte
    cases hbyte
    rfl

/-- Settles O15: after `W` BYTEs the remainder is the shifter's. -/
theorem wordEqualsItsBytes : Obligations.WordEqualsItsBytes := by
  unfold Obligations.WordEqualsItsBytes
  intro d f h
  rw [eq_setR_foldBytesOf h (Nat.le_refl _), exec_word, wordStep_eq_foldBytesOf]

/-! ## The frame of every command -/

/-- Everything a command can do to R (R121, R130, R131); a RANGE fault keeps it (R173). -/
theorem exec_R_cases {i : Instr} {s t : State} (h : exec i s = .next t) :
    t.R = s.R ∨
    (∃ v, i = .load v ∧ t.R = v ^^^ K) ∨
    (∃ b, i = .byte b ∧ t.R = byteStep s.R b) ∨
    (∃ d, i = .word d ∧ t.R = wordStep s.cfg.W s.R d) := by
  obtain ⟨-, rfl⟩ | ⟨v, hi, rfl⟩ | ⟨-, rfl⟩ | ⟨b, hi, rfl⟩ | ⟨d, hi, rfl⟩ | ⟨base, -, rfl⟩ |
    ⟨base, len, -, -, -, rfl⟩ | ⟨base, len, -, -, -, rfl⟩ := exec_cases h
  case inr.inl => exact .inr (.inl ⟨v, hi, rfl⟩)
  case inr.inr.inr.inl => exact .inr (.inr (.inl ⟨b, hi, rfl⟩))
  case inr.inr.inr.inr.inl => exact .inr (.inr (.inr ⟨d, hi, rfl⟩))
  all_goals exact .inl rfl

/-- The sequencer and the flags of STATUS are written by no command but UPDATE (R141, R171). -/
theorem exec_sequencer_of_ne_update {i : Instr} {s t : State} (h : exec i s = .next t) (hi : i.op ≠ .update) :
    t.PTR = s.PTR ∧ t.WORDS = s.WORDS ∧ t.BYTES = s.BYTES ∧ t.STATUS = s.STATUS := by
  obtain ⟨-, rfl⟩ | ⟨v, -, rfl⟩ | ⟨-, rfl⟩ | ⟨b, -, rfl⟩ | ⟨d, -, rfl⟩ | ⟨base, -, rfl⟩ |
    ⟨base, len, rfl, -, -, -⟩ | ⟨base, len, rfl, -, -, -⟩ := exec_cases h
  case inr.inr.inr.inr.inr.inr.inl | inr.inr.inr.inr.inr.inr.inr => exact absurd rfl hi
  all_goals exact ⟨rfl, rfl, rfl, rfl⟩

/-- A command leaves the fault registers, or it is an UPDATE of some bytes past the top of the space, which enters a
RANGE fault (R171). -/
theorem exec_sameFaultRegisters_or_range {i : Instr} {s t : State} (h : exec i s = .next t) :
    s.SameFaultRegisters t ∨
    ∃ base len, i = .update base len ∧ len ≠ 0 ∧ base.toNat + len.toNat > s.cfg.space ∧
      t = s.raiseFault .range base := by
  obtain ⟨-, rfl⟩ | ⟨v, -, rfl⟩ | ⟨-, rfl⟩ | ⟨b, -, rfl⟩ | ⟨d, -, rfl⟩ | ⟨base, -, rfl⟩ | hrange |
    ⟨base, len, -, -, -, rfl⟩ := exec_cases h
  case inr.inr.inr.inr.inr.inr.inl => exact .inr hrange
  all_goals exact .inl ⟨rfl, rfl, rfl⟩

/-- Settles O19: what no command writes, and for RESULT, R, the sequencer and the fault registers the commands that
write them. -/
theorem frameOfEveryCommand : Obligations.FrameOfEveryCommand := by
  unfold Obligations.FrameOfEveryCommand
  intro i s t h
  obtain ⟨hcfg, hcmd, hA, hB, hreset, hturns⟩ := exec_sameInputs h
  refine ⟨hcfg, exec_CMD_VALID h, hcmd, hA, hB, hreset, hturns, fun a => by rw [exec_mem h], fun hi => ?_,
    fun hload hbyte hword => ?_, exec_sequencer_of_ne_update h, fun hi => ?_⟩
  · obtain hkept | ⟨rfl, -⟩ := exec_RESULT_or_read h
    · exact hkept
    · exact absurd rfl hi
  · obtain hkept | ⟨v, rfl, -⟩ | ⟨b, rfl, -⟩ | ⟨d, rfl, -⟩ := exec_R_cases h
    · exact hkept
    · exact absurd rfl hload
    · exact absurd rfl hbyte
    · exact absurd rfl hword
  · obtain hkept | ⟨base, len, rfl, hlen, hspace, -⟩ := exec_sameFaultRegisters_or_range h
    · exact hkept
    · exact absurd hspace (Nat.not_lt.2 (hi base len rfl hlen))

/-! ## R over a step -/

/-- What decodes is assembled from the ports by its own form (R74). -/
theorem eq_assemble_of_decode {W : WordWidth} {c : Command} {i : Instr} (h : decode W c = .ok i) :
    i = assemble W i.op c.A c.B := by
  obtain ⟨op, -, rfl⟩ := decode_eq_ok h
  rw [assemble_op]

/-- The bytes that the shifter reads are in the operand of form AW (R74, R104). -/
theorem byteOf_operandAW {W : WordWidth} {i : Nat} (h : i < W.bytes) (d : Word64) :
    byteOf (operandAW W d) i = byteOf d i := by
  apply BitVec.eq_of_getLsbD_eq
  intro j hj
  have hbit : 8 * i + j < 8 * W.bytes := by omega
  have h64 : 8 * i + j < 64 := by have := W.bytes_le; omega
  simp only [byteOf, operandAW, BitVec.getLsbD_extractLsb', BitVec.getLsbD_and, getLsbD_lowBits, hbit, h64, decide_true,
    Bool.and_true]

/-- The shifter reads no bit above the operand of form AW (R131). -/
theorem wordStep_operandAW (W : WordWidth) (r : Word32) (d : Word64) :
    wordStep W r (operandAW W d) = wordStep W r d := by
  refine List.foldl_ext _ _ _ fun x i hi => ?_
  rw [byteOf_operandAW (List.mem_range.1 hi)]

/-- Everything the accept step can do to R, by the command word (R119, R121, R130, R131); fault entry keeps it
(R173). -/
theorem accept_R_cases {s t : State} (h : accept s = .next t) :
    t.R = s.R ∨
    (s.CMD = 0x00000001 ∧ t.R = s.A.extractLsb' 0 32 ^^^ 0xFFFFFFFF) ∨
    (s.CMD = 0x00000003 ∧ t.R = byteStep s.R (s.A.extractLsb' 0 8)) ∨
    (s.CMD = 0x00000004 ∧ t.R = wordStep s.cfg.W s.R s.A) := by
  obtain ⟨e, -, rfl⟩ | ⟨i, hi, hexec⟩ := accept_cases h
  · exact .inl rfl
  · have hcmd : s.CMD = i.op.cmdWord := CMD_eq_cmdWord_of_decode hi
    have hop := eq_assemble_of_decode hi
    obtain hkept | ⟨v, rfl, hR⟩ | ⟨b, rfl, hR⟩ | ⟨d, rfl, hR⟩ := exec_R_cases hexec
    · exact .inl hkept
    · obtain rfl : v = operandA32 s.A := Instr.load.inj hop
      exact .inr (.inl ⟨hcmd, hR⟩)
    · obtain rfl : b = operandA8 s.A := Instr.byte.inj hop
      exact .inr (.inr (.inl ⟨hcmd, hR⟩))
    · obtain rfl : d = operandAW s.cfg.W s.A := Instr.word.inj hop
      exact .inr (.inr (.inr ⟨hcmd, hR.trans (wordStep_operandAW _ _ _)⟩))

/-- Settles O32: R over each kind of step. -/
theorem onlyFoldsLoadAndResetWriteR : Obligations.OnlyFoldsLoadAndResetWriteR := by
  unfold Obligations.OnlyFoldsLoadAndResetWriteR
  intro s t h
  obtain ⟨hreset, rfl⟩ | ⟨hb, -⟩ | ⟨ha, haccept⟩ | hsame := step_next_cases h
  · exact .inr (.inr (.inr (.inr (.inr ⟨hreset, rfl⟩))))
  · exact .inr (.inr (.inr (.inr (.inl hb))))
  · obtain hkept | hload | hbyte | hword := accept_R_cases haccept
    · exact .inl hkept
    · exact .inr (.inl ⟨ha, hload⟩)
    · exact .inr (.inr (.inl ⟨ha, hbyte⟩))
    · exact .inr (.inr (.inr (.inl ⟨ha, hword⟩)))
  · exact .inl hsame.R

end Sys2Proof.Machine
end

section
/-! PROOFS. Fault entry and the faulted state (60_exceptions.md R170 to R175), the reset step (70_reset_and_hazards.md
R200), and that nothing shows the free values a fault leaves in R and PTR (43_update_command.md R152, R174). -/

namespace Sys2Proof.Machine

/-! ## Fault entry -/

/-- Settles O6: with READY at 1 the step is the accept step, which executes what the command decodes to. -/
theorem stepRunsTheDecodedCommand : Obligations.StepRunsTheDecodedCommand := by
  unfold Obligations.StepRunsTheDecodedCommand
  intro s i hturn hreset hready hvalid hi
  obtain ⟨hbusy, hfault⟩ := s.READY_eq_true_iff.1 hready
  have haccepting := s.accepting_iff.2 ⟨hturn, hreset, hbusy, hfault, hvalid⟩
  rw [step_of_accepting haccepting, accept_of_decode (s := s.popTurn) hi]

/-- STATUS of an ILLEGAL_CMD fault: FAULT at bit 1 and cause 1 at bits 7:4 (R24, R170). -/
theorem State.raiseFault_illegalCmd_STATUS (s : State) (v : Word64) :
    (s.raiseFault .illegalCmd v).STATUS = 0x00000012 := by
  rw [State.STATUS, State.raiseFault_CAUSE, State.raiseFault_FAULT, State.raiseFault_BUSY]
  decide

/-- A word with a reserved bit set or an unassigned command number is not below 6 (R70, R75). -/
theorem six_le_of_illegal {c : Word32} (h : c.extractLsb' 4 28 ≠ 0 ∨ 6 ≤ (c.extractLsb' 0 4).toNat) : 6 ≤ c.toNat := by
  rcases h with hrsv | hop
  · have := sixteen_le_of_rsvField_ne_zero hrsv
    omega
  · rw [BitVec.extractLsb'_toNat, Nat.shiftRight_zero] at hop
    exact hop.trans (Nat.mod_le _ _)

/-- Settles O7: such a word does not decode, and its accept step is the entry of an ILLEGAL_CMD fault. -/
theorem illegalCommandFaults : Obligations.IllegalCommandFaults := by
  unfold Obligations.IllegalCommandFaults
  intro s ha hillegal
  obtain ⟨e, he⟩ := exists_decode_eq_error (W := s.cfg.W) (c := s.popTurn.presented) (six_le_of_illegal hillegal)
  exact ⟨_, (step_of_accepting ha).trans (accept_of_decode_error he), rfl, rfl, rfl,
    State.raiseFault_illegalCmd_STATUS _ _, rfl, rfl, rfl, rfl, rfl, rfl, rfl, rfl, rfl, rfl, rfl, rfl, fun _ => rfl⟩

/-- A beat keeps FAULT, or it enters a BUS fault with the lowest address it needs that is not readable (R146, R172). -/
theorem beat_FAULT_or_bus {s t : State} (h : beat s = .next t) :
    t.FAULT = s.FAULT ∨
    ∃ a, t = s.raiseFault .bus (BitVec.ofNat 64 a) ∧ s.PTR ≤ a ∧
      a < s.PTR + (if 0 < s.WORDS then s.cfg.W.bytes else 1) ∧ s.mem.read a = none ∧ s.mem.readable s.PTR a := by
  obtain ⟨-, bs, -, rfl⟩ | ⟨-, b, -, rfl⟩ | ⟨hwords, a, hread, ht⟩ | ⟨hwords, hread, ht⟩ := beat_cases h
  · exact .inl rfl
  · exact .inl rfl
  · rw [if_pos hwords]
    exact .inr ⟨a, ht, Memory.readBytes_error_iff.1 hread⟩
  · rw [if_neg (Nat.not_lt.2 hwords.le)]
    exact .inr ⟨s.PTR, ht, Nat.le_refl _, Nat.lt_succ_self _, hread, fun x hlo hhi => by omega⟩

/-- The accept step keeps FAULT, or it consumes the command and enters an ILLEGAL_CMD fault with the word or a RANGE
fault with A (R119, R170, R171). -/
theorem accept_FAULT_or_raiseFault {s t : State} (h : accept s = .next t) :
    t.FAULT = s.FAULT ∨ t = s.consume.raiseFault .illegalCmd (s.CMD.setWidth 64) ∨
      t = s.consume.raiseFault .range s.A := by
  obtain ⟨e, -, ht⟩ | ⟨i, hi, hexec⟩ := accept_cases h
  · exact .inr (.inl ht)
  · obtain ⟨hfault, -⟩ | ⟨base, len, rfl, -, -, ht⟩ := exec_sameFaultRegisters_or_range hexec
    · exact .inl hfault
    · obtain ⟨rfl, -⟩ := Instr.update.inj (eq_assemble_of_decode hi)
      exact .inr (.inr ht)

/-- Settles O21: of the kinds of step only a beat and an accept can take FAULT to 1, and each does it by fault entry. -/
theorem everyFaultEntry : Obligations.EveryFaultEntry := by
  unfold Obligations.EveryFaultEntry
  intro s t h hs ht
  have hne : t.FAULT ≠ s.FAULT := by rw [hs, ht]; decide
  obtain ⟨-, rfl⟩ | ⟨hb, hbeat⟩ | ⟨ha, haccept⟩ | hsame := step_next_cases h
  · exact absurd hs.symm hne
  · obtain hkept | ⟨a, rfl, hlowest⟩ := beat_FAULT_or_bus hbeat
    · exact absurd hkept hne
    · exact ⟨.inr (.inr ⟨rfl, State.raiseFault_bus_STATUS _ _, hb, rfl, a, rfl, hlowest⟩), rfl, rfl, rfl,
        State.raiseFault_PTR_le _ _ _, rfl, rfl, rfl, rfl, rfl, rfl, rfl⟩
  · obtain hkept | rfl | rfl := accept_FAULT_or_raiseFault haccept
    · exact absurd hkept hne
    · exact ⟨.inl ⟨rfl, State.raiseFault_illegalCmd_STATUS _ _, rfl, ha, rfl, rfl⟩, rfl, rfl, rfl,
        State.raiseFault_PTR_le _ _ _, rfl, rfl, rfl, rfl, rfl, rfl, rfl⟩
    · exact ⟨.inr (.inl ⟨rfl, State.raiseFault_range_STATUS _ _, rfl, ha, rfl, rfl⟩), rfl, rfl, rfl,
        State.raiseFault_PTR_le _ _ _, rfl, rfl, rfl, rfl, rfl, rfl, rfl⟩
  · exact absurd hsame.FAULT hne

/-! ## The faulted state -/

/-- STATUS is made of registers (R24). -/
theorem State.SameRegisters.STATUS {s t : State} (h : s.SameRegisters t) : t.STATUS = s.STATUS := by
  rw [State.STATUS, State.STATUS, State.BUSY, State.BUSY, h.CAUSE, h.FAULT, h.WORDS, h.BYTES]

/-- In the faulted state CORE's turn with RESET at 0 changes nothing but the turns (R175, log 6). -/
theorem step_of_faulted {s : State} (hfault : s.FAULT = true) (hturn : s.coreTurn = true) (hreset : s.RESET = false) :
    step s = .next s.popTurn := by
  rw [step_of_coreTurn hturn]
  simp [coreStep, hfault, hreset]

/-- In the faulted state every step but a reset leaves all registers: neither a beat nor an accept is enabled (R175). -/
theorem sameRegisters_of_faulted {s t : State} (hfault : s.FAULT = true) (hreset : s.resetting = false)
    (h : step s = .next t) : s.SameRegisters t := by
  obtain ⟨hr, -⟩ | ⟨hb, -⟩ | ⟨ha, -⟩ | hsame := step_next_cases h
  · simp [hreset] at hr
  · simp [State.beating, hfault] at hb
  · simp [State.accepting, State.READY, hfault] at ha
  · exact hsame

/-- Settles O22: such a step leaves all registers, and a presented command, which is not accepted, stays presented. -/
theorem faultedStateIsTerminal : Obligations.FaultedStateIsTerminal := by
  unfold Obligations.FaultedStateIsTerminal
  refine ⟨fun s => step_of_faulted, fun s t hfault hbusy hreset h => ?_⟩
  have hsame := sameRegisters_of_faulted hfault hreset h
  have htfault : t.FAULT = true := hsame.FAULT.trans hfault
  have htbusy : t.BUSY = false := by rw [State.BUSY, hsame.WORDS, hsame.BYTES]; exact hbusy
  refine ⟨htfault, hsame.STATUS, hsame.RESULT, hsame.FAULT_INFO, by simp [State.READY, htfault], htbusy,
    State.beatAddresses_of_not_BUSY htbusy, fun hvalid => ?_⟩
  obtain hkept | ha := step_keeps_presented_or_accepting h hvalid
  · exact hkept
  · simp [State.accepting, State.READY, hfault] at ha

/-! ## Reset -/

/-- A reset step is no beat (R200). -/
theorem State.beating_of_resetting {s : State} (h : s.resetting = true) : s.beating = false := by
  rw [← Bool.not_eq_true]
  intro hb
  obtain ⟨hturn, hlevel, -⟩ := s.beating_iff.1 hb
  exact Bool.false_ne_true (hlevel.symm.trans ((State.resetting_iff_of_coreTurn hturn).1 h))

/-- A step that is no beat reads nothing, and the addresses of a run are those of the rest (R57, log 17). -/
theorem addressesRead_of_not_beating {s t : State} (hbeat : s.beating = false) (h : step s = .next t) (k : Nat) :
    addressesRead (k + 1) s = addressesRead k t := by
  simp [addressesRead, hbeat, h]

/-- Settles O24: the step is the reset step, which is no beat, and no other step takes FAULT to 0. -/
theorem resetRestoresEveryElement : Obligations.ResetRestoresEveryElement := by
  unfold Obligations.ResetRestoresEveryElement
  refine ⟨fun s hreset => ?_, fun s hreset => ?_, fun s t h hs ht => ?_⟩
  · exact ⟨_, step_of_resetting hreset, rfl, rfl, State.resetStep_STATUS _, rfl, rfl, rfl, rfl, rfl, rfl,
      State.resetStep_READY _, rfl, rfl, rfl, rfl, rfl, rfl, rfl, rfl,
      fun hvalid hlevel hturn => (State.accepting_iff _).2 ⟨hturn, hlevel, rfl, rfl, hvalid⟩⟩
  · have hbeat := State.beating_of_resetting hreset
    exact ⟨hbeat, addressesRead_of_not_beating hbeat (step_of_resetting hreset) 0⟩
  · by_contra hreset
    have hsame := sameRegisters_of_faulted hs (Bool.eq_false_of_not_eq_true hreset) h
    rw [hsame.FAULT, hs] at ht
    exact Bool.false_ne_true ht.symm

/-! ## The free values of a faulted CORE -/

/-- The state with `r` in R and `p` in PTR. -/
def State.withRemainder (r : Word32) (p : Nat) (s : State) : State := { s with R := r, PTR := p }

/-- A host move that is no reset pulse reads neither R nor PTR and leaves both (R209). -/
theorem hostMove_withRemainder {m : HostMove} (hm : m ≠ .pulseReset) (r : Word32) (p : Nat) (s : State) :
    hostMove m (s.withRemainder r p) = seen (State.withRemainder r p) (hostMove m s) := by
  cases m with
  | driveReset level => rfl
  | pulseReset => exact absurd rfl hm
  | _ =>
    simp only [hostMove, presentCommand, changeMemory, apply_ite (seen _)]
    rfl

/-- A reset sets R and PTR whatever they hold (R200). -/
theorem step_withRemainder_of_resetting {s : State} (r : Word32) (p : Nat) (h : s.resetting = true) :
    step (s.withRemainder r p) = step s := by
  have h' : (s.withRemainder r p).resetting = true := h
  rw [step_of_resetting h, step_of_resetting h']
  rfl

/-- In the faulted state every step but a reset is the same, whatever R and PTR hold, but for R and PTR (R174, R175). -/
theorem step_withRemainder_of_faulted {s : State} (r : Word32) (p : Nat) (hfault : s.FAULT = true)
    (hreset : s.resetting = false) : step (s.withRemainder r p) = seen (State.withRemainder r p) (step s) := by
  obtain ⟨hturn, -⟩ | ⟨m, rest, hturns, -, hs⟩ := step_cases s
  · have hlevel : s.RESET = false := by
      rw [← Bool.not_eq_true, ← State.resetting_iff_of_coreTurn hturn, hreset]
      exact Bool.false_ne_true
    have hmodified : step (s.withRemainder r p) = .next (s.withRemainder r p).popTurn :=
      step_of_faulted hfault hturn hlevel
    rw [hmodified, step_of_faulted hfault hturn hlevel]
    rfl
  · have hm : m ≠ .pulseReset := by
      rw [Ne, ← State.resetting_iff_of_host hturns, hreset]
      exact Bool.false_ne_true
    have hmodified : step (s.withRemainder r p) = hostMove m (s.popTurn.withRemainder r p) := step_of_host hturns
    rw [hmodified, hs, hostMove_withRemainder hm]

/-- Settles O56: a reset forgets R and PTR, and every other step keeps them apart from the rest and the state faulted.
-/
theorem faultedStatesStayEqualButForRAndPTR : Obligations.FaultedStatesStayEqualButForRAndPTR := by
  unfold Obligations.FaultedStatesStayEqualButForRAndPTR
  intro s r p hfault hbusy
  refine ⟨step_withRemainder_of_resetting r p, fun hreset =>
    ⟨step_withRemainder_of_faulted r p hfault hreset, fun t ht => ?_⟩⟩
  obtain ⟨htfault, -, -, -, -, htbusy, -⟩ := faultedStateIsTerminal.2 s t hfault hbusy hreset ht
  exact ⟨htfault, htbusy⟩

/-- Settles O46: by induction on the number of steps. From a reset on the runs are the same, and until then the states
differ only in R and PTR, which no output port shows. -/
theorem faultedRemainderIsNotObservable : Obligations.FaultedRemainderIsNotObservable := by
  unfold Obligations.FaultedRemainderIsNotObservable
  intro n
  induction n with
  | zero => exact fun _ _ _ _ _ => rfl
  | succ n ih =>
    intro s r p hfault hbusy
    obtain ⟨hresetting, hother⟩ := faultedStatesStayEqualButForRAndPTR s r p hfault hbusy
    simp only [run]
    cases hreset : s.resetting with
    | true => rw [hresetting hreset]
    | false =>
      obtain ⟨hstep, hkept⟩ := hother hreset
      rw [hstep]
      cases ht : step s with
      | next t =>
        obtain ⟨htfault, htbusy⟩ := hkept t ht
        exact ih t r p htfault htbusy
      | fault e => rfl
      | refused e => rfl

end Sys2Proof.Machine
end

section
/-! PROOFS. The laws of the datapath (40_datapath.md R105, R107, R109 to R111): linearity, the table and the parallel
form, which are one law of the wide register, and the folds of a byte sequence. -/

namespace Sys2Proof.Machine

/-! ## The register of `n` bits -/

/-- A bit step of the wide register is linear (R111). -/
theorem bitStepWide_xor (n : Nat) (x y : BitVec n) :
    bitStepWide n (x ^^^ y) = bitStepWide n x ^^^ bitStepWide n y := by
  have hleft (a b p : BitVec n) : (a ^^^ b) ^^^ p = (a ^^^ p) ^^^ b := by ac_rfl
  have hboth (a b p : BitVec n) : a ^^^ b = (a ^^^ p) ^^^ (b ^^^ p) := by
    rw [hleft a p, ← BitVec.xor_assoc, BitVec.xor_assoc (a ^^^ b), BitVec.xor_self, BitVec.xor_zero]
  simp only [bitStepWide, BitVec.getLsbD_xor, BitVec.ushiftRight_xor_distrib]
  cases x.getLsbD 0 <;> cases y.getLsbD 0
  · rfl
  · exact BitVec.xor_assoc _ _ _
  · exact hleft _ _ _
  · exact hboth _ _ _

/-- Bit steps of the wide register are linear. -/
theorem bitStepsWide_xor (n k : Nat) (x y : BitVec n) :
    bitStepsWide n k (x ^^^ y) = bitStepsWide n k x ^^^ bitStepsWide n k y := by
  induction k generalizing x y with
  | zero => rfl
  | succ k ih => simp only [bitStepsWide, bitStepWide_xor, ih]

/-- Bit steps one after another. -/
theorem bitStepsWide_add (n j k : Nat) (x : BitVec n) :
    bitStepsWide n (j + k) x = bitStepsWide n k (bitStepsWide n j x) := by
  induction j generalizing x with
  | zero => rw [Nat.zero_add]; rfl
  | succ j ih => rw [Nat.succ_add]; exact ih _

/-- Bit steps over zero bits shift. -/
theorem bitStepsWide_of_low_zero {n k : Nat} {x : BitVec n} (h : ∀ i < k, x.getLsbD i = false) :
    bitStepsWide n k x = x >>> k := by
  induction k generalizing x with
  | zero => rfl
  | succ k ih =>
    have hshift : bitStepWide n x = x >>> 1 := by simp [bitStepWide, h 0 (Nat.succ_pos k)]
    have hlow (i : Nat) (hi : i < k) : (x >>> 1).getLsbD i = false := by
      rw [BitVec.getLsbD_ushiftRight]
      exact h (1 + i) (by omega)
    rw [bitStepsWide, hshift, ih hlow, ← BitVec.shiftRight_add, Nat.add_comm]

/-- In a register of at least 32 bits a bit step of a zero-extended remainder is the remainder's (R102, R105). -/
theorem bitStepWide_setWidth {n : Nat} (hn : 32 ≤ n) (r : Word32) :
    bitStepWide n (r.setWidth n) = (bitStep r).setWidth n := by
  have hbit : (r.setWidth n).getLsbD 0 = r.getLsbD 0 := by
    rw [BitVec.getLsbD_setWidth, decide_eq_true (by omega : 0 < n), Bool.true_and]
  rw [bitStepWide, bitStep, hbit, ← BitVec.setWidth_ushiftRight hn, ← BitVec.setWidth_xor,
    apply_ite (BitVec.setWidth n)]

/-- In a register of at least 32 bits the bit steps of a zero-extended remainder are the remainder's. -/
theorem bitStepsWide_setWidth {n : Nat} (hn : 32 ≤ n) (k : Nat) (r : Word32) :
    bitStepsWide n k (r.setWidth n) = (bitSteps k r).setWidth n := by
  induction k generalizing r with
  | zero => rfl
  | succ k ih => rw [bitStepsWide, bitStepWide_setWidth hn, ih, bitSteps]

/-- The remainder's bit steps are those of the register of 32 bits. -/
theorem bitSteps_eq_bitStepsWide (k : Nat) (r : Word32) : bitSteps k r = bitStepsWide 32 k r := by
  have h := bitStepsWide_setWidth (Nat.le_refl 32) k r
  rw [BitVec.setWidth_eq, BitVec.setWidth_eq] at h
  exact h.symm

/-- A register is its low byte and the rest. -/
theorem eq_low_xor_rest {n : Nat} (x : BitVec n) : x = (x.setWidth 8).setWidth n ^^^ ((x >>> 8) <<< 8) := by
  apply BitVec.eq_of_getLsbD_eq
  intro i hi
  by_cases h8 : i < 8
  · simp [hi, h8]
  · simp [hi, h8, Nat.add_sub_cancel' (Nat.le_of_not_lt h8)]

/-- What a shift down leaves fits, so shifting it up and down again changes nothing. -/
theorem shiftLeft_ushiftRight_of_ushiftRight {n : Nat} (x : BitVec n) (k : Nat) : x >>> k <<< k >>> k = x >>> k := by
  apply BitVec.eq_of_getLsbD_eq
  intro i hi
  by_cases h : k + i < n
  · simp [h]
  · simp [h, BitVec.getLsbD_of_ge x (k + i) (Nat.le_of_not_lt h)]

/-- Eight bit steps of a register of at least 32 bits: the byte step of the low byte, over the rest shifted down. -/
theorem bitStepsWide_eight {n : Nat} (hn : 32 ≤ n) (r : Word32) (x : BitVec n) :
    bitStepsWide n 8 (r.setWidth n ^^^ x) = (byteStep r (x.setWidth 8)).setWidth n ^^^ (x >>> 8) := by
  have hlow : r.setWidth n ^^^ (x.setWidth 8).setWidth n = (r ^^^ (x.setWidth 8).setWidth 32).setWidth n := by
    rw [BitVec.setWidth_xor, BitVec.setWidth_setWidth (x := x.setWidth 8) (by omega)]
  have hrest : bitStepsWide n 8 ((x >>> 8) <<< 8) = x >>> 8 := by
    rw [bitStepsWide_of_low_zero (fun i hi => by simp [hi])]
    exact shiftLeft_ushiftRight_of_ushiftRight x 8
  calc bitStepsWide n 8 (r.setWidth n ^^^ x)
    _ = bitStepsWide n 8 (r.setWidth n ^^^ (x.setWidth 8).setWidth n ^^^ ((x >>> 8) <<< 8)) := by
      rw [BitVec.xor_assoc, ← eq_low_xor_rest]
    _ = (byteStep r (x.setWidth 8)).setWidth n ^^^ (x >>> 8) := by
      rw [bitStepsWide_xor, hlow, bitStepsWide_setWidth hn, hrest, byteStep]

/-! ## Linearity, the table form and the parallel form -/

/-- ByteStep is linear (R111). -/
theorem byteStep_xor (r1 r2 : Word32) (b1 b2 : Byte) :
    byteStep (r1 ^^^ r2) (b1 ^^^ b2) = byteStep r1 b1 ^^^ byteStep r2 b2 := by
  have hswap : (r1 ^^^ r2) ^^^ (b1 ^^^ b2).setWidth 32 = (r1 ^^^ b1.setWidth 32) ^^^ (r2 ^^^ b2.setWidth 32) := by
    rw [BitVec.setWidth_xor]
    ac_rfl
  simp only [byteStep, bitSteps_eq_bitStepsWide, hswap, bitStepsWide_xor]

/-- A byte of an exclusive or. -/
theorem byteOf_xor (d1 d2 : Word64) (i : Nat) : byteOf (d1 ^^^ d2) i = byteOf d1 i ^^^ byteOf d2 i := by
  apply BitVec.eq_of_getLsbD_eq
  intro j hj
  simp [byteOf, hj]

/-- Byte steps of the shifter are linear (R111). -/
theorem foldBytesOf_xor (r1 r2 : Word32) (d1 d2 : Word64) (n : Nat) :
    foldBytesOf (r1 ^^^ r2) (d1 ^^^ d2) n = foldBytesOf r1 d1 n ^^^ foldBytesOf r2 d2 n := by
  induction n with
  | zero => rfl
  | succ n ih => simp only [foldBytesOf_succ, ih, byteOf_xor, byteStep_xor]

/-- Settles O47: a byte step is bit steps, which are linear, and the shifter is byte steps. -/
theorem foldsAreLinear : Obligations.FoldsAreLinear := by
  unfold Obligations.FoldsAreLinear
  exact ⟨byteStep_xor, fun W r1 r2 d1 d2 => foldBytesOf_xor r1 r2 d1 d2 W.bytes⟩

/-- Settles O48: eight bit steps of the register of 32 bits that holds the remainder and the byte. -/
theorem tableFormOfByteStep : Obligations.TableFormOfByteStep := by
  unfold Obligations.TableFormOfByteStep
  intro r b
  have hbyte : (b.setWidth 32 >>> 8 : Word32) = 0#32 := by
    rw [← BitVec.setWidth_ushiftRight (by decide), BitVec.ushiftRight_eq_zero (Nat.le_refl 8)]
    rfl
  have hrest : (r ^^^ b.setWidth 32) >>> 8 = r >>> 8 := by
    rw [BitVec.ushiftRight_xor_distrib, hbyte, BitVec.xor_zero]
  calc byteStep r b
    _ = bitStepsWide 32 8 ((0#32).setWidth 32 ^^^ (r ^^^ b.setWidth 32)) := by
      rw [BitVec.setWidth_eq, BitVec.zero_xor, ← bitSteps_eq_bitStepsWide, byteStep]
    _ = (tableEntry ((r ^^^ b.setWidth 32).setWidth 8)).setWidth 32 ^^^ ((r ^^^ b.setWidth 32) >>> 8) :=
      bitStepsWide_eight (Nat.le_refl 32) 0 _
    _ = (r >>> 8) ^^^ tableEntry ((r ^^^ b.setWidth 32).extractLsb' 0 8) := by
      rw [hrest, BitVec.setWidth_eq, BitVec.xor_comm, BitVec.setWidth_eq_extractLsb' (by decide)]

/-- Byte `i` of a word's low `8W` bits. -/
theorem setWidth_ushiftRight_eq_byteOf {W : WordWidth} {i : Nat} (h : i < W.bytes) (d : Word64) :
    (d.setWidth (8 * W.bytes) >>> (8 * i)).setWidth 8 = byteOf d i := by
  apply BitVec.eq_of_getLsbD_eq
  intro j hj
  have hbit : 8 * i + j < 8 * W.bytes := by omega
  simp [byteOf, hj, hbit]

/-- After `8m` bit steps the wide register holds `m` byte steps of the shifter over the bytes to come (R105). -/
theorem bitStepsWide_eq_foldBytesOf {W : WordWidth} {m : Nat} (hm : m ≤ W.bytes) (r : Word32) (d : Word64) :
    bitStepsWide (8 * W.bytes) (8 * m) (r.setWidth (8 * W.bytes) ^^^ d.setWidth (8 * W.bytes)) =
      (foldBytesOf r d m).setWidth (8 * W.bytes) ^^^ (d.setWidth (8 * W.bytes) >>> (8 * m)) := by
  have hn : 32 ≤ 8 * W.bytes := by cases W <;> decide
  induction m with
  | zero => rfl
  | succ m ih =>
    rw [Nat.mul_succ, bitStepsWide_add, ih (Nat.le_of_succ_le hm), bitStepsWide_eight hn,
      setWidth_ushiftRight_eq_byteOf hm, ← foldBytesOf_succ, ← BitVec.shiftRight_add]

/-- Settles O49: after all `8W` bit steps no byte is to come, and the register is the shifter's remainder. -/
theorem parallelFormOfWordStep : Obligations.ParallelFormOfWordStep := by
  unfold Obligations.ParallelFormOfWordStep
  intro W r d
  have hn : 32 ≤ 8 * W.bytes := by cases W <;> decide
  rw [wordStepParallel, bitStepsWide_eq_foldBytesOf (Nat.le_refl _), BitVec.ushiftRight_eq_zero (Nat.le_refl _),
    BitVec.xor_zero, BitVec.setWidth_setWidth_of_le _ hn, BitVec.setWidth_eq, wordStep_eq_foldBytesOf]

/-! ## The folds of a byte sequence -/

/-- Folding `q` words folds their bytes (R107). -/
theorem foldWords_eq_fold {W : WordWidth} {q : Nat} {bs : List Byte} (h : W.bytes * q ≤ bs.length) (r : Word32) :
    foldWords W q r bs = fold r (bs.take (W.bytes * q)) := by
  induction q generalizing r bs with
  | zero => rfl
  | succ q ih =>
    rw [Nat.mul_succ] at h
    have hword : (bs.take W.bytes).length = W.bytes := List.length_take_of_le (by omega)
    have hrest : W.bytes * q ≤ (bs.drop W.bytes).length := by rw [List.length_drop]; omega
    rw [foldWords, wordStep_composeLE W r hword, ih hrest, ← fold_append, Nat.mul_succ, Nat.add_comm, List.take_add]

/-- Settles O50: the words fold the first `W * q` bytes, and the residue bytes are the others. -/
theorem chunkSplitEqualsByteFold : Obligations.ChunkSplitEqualsByteFold := by
  unfold Obligations.ChunkSplitEqualsByteFold
  intro W r bs
  rw [foldSplit, foldWords_eq_fold (Nat.mul_div_le _ _), ← fold_append, List.take_append_drop]

/-- Conditioning twice gives back the remainder (R109). -/
theorem xor_K_xor_K (r : Word32) : r ^^^ K ^^^ K = r := by
  rw [BitVec.xor_assoc, BitVec.xor_self, BitVec.xor_zero]

/-- Settles O52: between the two parts the conditioning cancels, and the fold of the whole is the fold of the second
part after the first. -/
theorem updateIsIncremental : Obligations.UpdateIsIncremental := by
  unfold Obligations.UpdateIsIncremental
  refine ⟨xor_K_xor_K, fun s bs k _ => ?_⟩
  rw [update, update, update, xor_K_xor_K, ← fold_append, List.take_append_drop]

/-- Settles O53: three folds of nine bytes, computed. -/
theorem checkValue : Obligations.CheckValue := by
  unfold Obligations.CheckValue
  decide +kernel

/-! ## The bytes of a read -/

/-- A byte composed below a word that leaves room for it (20_memory.md R54). -/
theorem toNat_composeLE_cons (b : Byte) {bs : List Byte} (h : (composeLE bs).toNat < 2 ^ 56) :
    (composeLE (b :: bs)).toNat = 2 ^ 8 * (composeLE bs).toNat + b.toNat := by
  have hb : b.toNat < 2 ^ 8 := b.isLt
  rw [composeLE, BitVec.toNat_or, BitVec.toNat_setWidth, BitVec.toNat_shiftLeft, Nat.shiftLeft_eq,
    Nat.mod_eq_of_lt (by omega), Nat.mod_eq_of_lt (by omega), Nat.mul_comm, Nat.or_comm,
    Nat.two_pow_add_eq_or_of_lt hb]

/-- The word that at most eight bytes compose has no bit above them. -/
theorem toNat_composeLE_lt {bs : List Byte} (h : bs.length ≤ 8) : (composeLE bs).toNat < 2 ^ (8 * bs.length) := by
  induction bs with
  | nil => decide
  | cons b bs ih =>
    rw [List.length_cons] at h ⊢
    have hrest := ih (by omega)
    have hroom : 2 ^ (8 * bs.length) ≤ 2 ^ 56 := Nat.pow_le_pow_right (by decide) (by omega)
    have hb : b.toNat < 2 ^ 8 := b.isLt
    rw [toNat_composeLE_cons b (hrest.trans_le hroom), Nat.mul_succ, Nat.pow_add]
    omega

/-- A composed word of at most eight bytes is the sum of its bytes, each shifted to its place (20_memory.md R54). -/
theorem toNat_composeLE {bs : List Byte} (h : bs.length ≤ 8) :
    (composeLE bs).toNat = ∑ i ∈ Finset.range bs.length, (bs[i]?.getD 0).toNat * 2 ^ (8 * i) := by
  induction bs with
  | nil => rfl
  | cons b bs ih =>
    rw [List.length_cons] at h ⊢
    have hrest := toNat_composeLE_lt (bs := bs) (by omega)
    have hroom : 2 ^ (8 * bs.length) ≤ 2 ^ 56 := Nat.pow_le_pow_right (by decide) (by omega)
    rw [toNat_composeLE_cons b (hrest.trans_le hroom), ih (by omega), Finset.sum_range_succ', Finset.mul_sum]
    congr 1
    · refine Finset.sum_congr rfl fun i _ => ?_
      rw [List.getElem?_cons_succ, Nat.mul_succ, Nat.pow_add]
      ring
    · simp

/-- Where bytes stand in memory, it is readable. -/
theorem Memory.holds.readable {m : Memory} {addr : Nat} {bs : List Byte} (h : m.holds addr bs) :
    m.readable addr (addr + bs.length) := by
  intro a hlo hhi
  have hbyte := h (a - addr) (by omega)
  rw [Nat.add_sub_cancel' hlo] at hbyte
  rw [hbyte]
  exact Option.some_ne_none _

/-- Settles O51: a read of bytes fails exactly at an unreadable address, and the bytes it gives are those in memory. -/
theorem memReadComposesLittleEndian : Obligations.MemReadComposesLittleEndian := by
  unfold Obligations.MemReadComposesLittleEndian
  intro m addr n hn
  refine ⟨⟨?_, Memory.exists_readBytes_of_readable⟩, fun bs hread => ?_⟩
  · rintro ⟨bs, hread⟩
    obtain ⟨rfl, hholds⟩ := Memory.readBytes_ok hread
    exact hholds.readable
  · obtain ⟨rfl, hholds⟩ := Memory.readBytes_ok hread
    rw [toNat_composeLE hn]
    refine Finset.sum_congr rfl fun i hi => ?_
    have hi := Finset.mem_range.1 hi
    rw [hholds i hi, List.getElem?_eq_getElem hi]

end Sys2Proof.Machine
end

section
/-! PROOFS. The beats of an UPDATE while CORE moves alone (43_update_command.md R143 to R148): over bytes that stand in
memory they end in one state, given as an equation; over an unreadable byte they end in BUS. -/

namespace Sys2Proof.Machine

/-! ## Bytes in memory -/

/-- Two byte sequences stand in memory one after the other exactly when their concatenation does. -/
theorem Memory.holds_append_iff {m : Memory} {addr : Nat} {xs ys : List Byte} :
    m.holds addr (xs ++ ys) ↔ m.holds addr xs ∧ m.holds (addr + xs.length) ys := by
  constructor
  · intro h
    refine ⟨fun i hi => ?_, fun i hi => ?_⟩
    · rw [h i (by rw [List.length_append]; omega), List.getElem_append_left hi]
    · rw [Nat.add_assoc, h (xs.length + i) (by rw [List.length_append]; omega),
        List.getElem_append_right (Nat.le_add_right _ _)]
      simp only [Nat.add_sub_cancel_left]
  · rintro ⟨hx, hy⟩ i hi
    rw [List.length_append] at hi
    by_cases hlt : i < xs.length
    · rw [hx i hlt, List.getElem_append_left hlt]
    · have hsum : addr + i = addr + xs.length + (i - xs.length) := by omega
      rw [hsum, hy (i - xs.length) (by omega), List.getElem_append_right (Nat.le_of_not_lt hlt)]

/-! ## One beat -/

/-- The bytes that the next beat needs (R143, R144). -/
def State.beatWidth (s : State) : Nat := if 0 < s.WORDS then s.cfg.W.bytes else 1

/-- The state after a beat that folds `xs` (R146). -/
def State.afterFold (s : State) (xs : List Byte) : State :=
  { s.popTurn with
    R := fold s.R xs
    PTR := s.PTR + xs.length
    WORDS := s.WORDS - 1
    BYTES := if 0 < s.WORDS then s.BYTES else s.BYTES - 1 }

/-- A beat advances PTR by the bytes it needs. -/
theorem State.afterFold_PTR {s : State} {xs : List Byte} (hlength : xs.length = s.beatWidth) :
    (s.afterFold xs).PTR = s.PTR + s.beatWidth :=
  congrArg (s.PTR + ·) hlength

/-- A beat takes its bytes off the bytes left. -/
theorem State.afterFold_bytesLeft {s : State} (hbusy : s.BUSY = true) (xs : List Byte) :
    s.beatWidth + (s.afterFold xs).bytesLeft = s.bytesLeft := by
  rcases Nat.eq_zero_or_pos s.WORDS with hwords | hwords
  · rw [State.bytesLeft_of_WORDS_eq_zero hwords hbusy]
    simp [State.beatWidth, State.afterFold, State.bytesLeft, hwords]
  · rw [State.bytesLeft_of_WORDS_pos hwords]
    simp [State.beatWidth, State.afterFold, State.bytesLeft, hwords]

/-- A beat takes one off the beats left. -/
theorem State.afterFold_beatsLeft {s : State} (hbusy : s.BUSY = true) (xs : List Byte) :
    (s.afterFold xs).beatsLeft + 1 = s.beatsLeft := by
  have hleft := s.BUSY_eq_true_iff.1 hbusy
  simp only [State.beatsLeft, State.afterFold] at hleft ⊢
  split <;> omega

/-- A beat needs no more bytes than are left. -/
theorem State.beatWidth_le_bytesLeft {s : State} (hbusy : s.BUSY = true) : s.beatWidth ≤ s.bytesLeft :=
  Nat.le.intro (State.afterFold_bytesLeft hbusy [])

/-- The step at a beat whose bytes stand in memory (R145, R146). -/
theorem step_of_beating_holds {s : State} {xs : List Byte} (h : s.beating = true) (hlength : xs.length = s.beatWidth)
    (hholds : s.mem.holds s.PTR xs) : step s = .next (s.afterFold xs) := by
  have hread := Memory.readBytes_of_holds hholds
  rcases Nat.eq_zero_or_pos s.WORDS with hwords | hwords
  · rw [State.beatWidth, if_neg (Nat.not_lt.2 hwords.le)] at hlength
    obtain ⟨b, rfl⟩ := List.length_eq_one_iff.1 hlength
    rw [step_of_beating_byte h hwords (hholds 0 Nat.one_pos)]
    simp [State.afterFold, hwords, fold]
  · rw [State.beatWidth, if_pos hwords] at hlength
    rw [step_of_beating_word h hwords (hlength ▸ hread), wordStep_composeLE _ _ hlength]
    simp [State.afterFold, hwords, hlength]

/-! ## CORE alone -/

/-- The host has no move left and RESET is 0, so that CORE moves alone from here on. -/
structure State.CoreAlone (s : State) : Prop where
  hostDone : s.hostDone = true
  RESET : s.RESET = false

/-- CORE goes on alone where it has the turns that are left and RESET stays. -/
theorem State.CoreAlone.of_popTurn {s t : State} (h : s.CoreAlone) (hturns : t.turns = s.turns.tail)
    (hreset : t.RESET = s.RESET) : t.CoreAlone := by
  refine ⟨?_, hreset.trans h.RESET⟩
  rw [State.hostDone, hturns]
  exact State.hostDone_popTurn h.hostDone

/-- Every step leaves CORE alone. -/
theorem State.CoreAlone.step {s t : State} (h : s.CoreAlone) (hstep : Machine.step s = .next t) : t.CoreAlone := by
  rw [step_of_coreTurn (State.coreTurn_of_hostDone h.hostDone)] at hstep
  obtain ⟨-, -, -, -, hreset, hturns⟩ := coreStep_sameInputs hstep
  exact h.of_popTurn hturns hreset

/-- Every run leaves CORE alone. -/
theorem State.CoreAlone.run {k : Nat} {s t : State} (h : s.CoreAlone) (hrun : Machine.run k s = .next t) :
    t.CoreAlone :=
  run_keeps (P := State.CoreAlone) (fun _ _ hu hstep => hu.step hstep) h hrun

/-- With CORE alone and no fault, a beat is enabled while BUSY is 1. -/
theorem State.CoreAlone.beating {s : State} (h : s.CoreAlone) (hfault : s.FAULT = false) (hbusy : s.BUSY = true) :
    s.beating = true :=
  s.beating_iff.2 ⟨State.coreTurn_of_hostDone h.hostDone, h.RESET, hbusy, hfault⟩

/-! ## Beats over bytes in memory -/

/-- CORE alone has the bytes `bs` left to fold, and they stand in memory. -/
structure State.Folding (s : State) (bs : List Byte) : Prop where
  alone : s.CoreAlone
  notFaulted : s.FAULT = false
  length : bs.length = s.bytesLeft
  holds : s.mem.holds s.PTR bs

/-- After a beat the other bytes are left to fold. -/
theorem State.Folding.afterFold {s : State} {xs ys : List Byte} (h : s.Folding (xs ++ ys)) (hbusy : s.BUSY = true)
    (hlength : xs.length = s.beatWidth) : (s.afterFold xs).Folding ys := by
  refine ⟨h.alone.of_popTurn rfl rfl, h.notFaulted, ?_, (Memory.holds_append_iff.1 h.holds).2⟩
  have hbytes := State.afterFold_bytesLeft hbusy xs
  have hall := h.length
  rw [List.length_append] at hall
  omega

/-- The step of a state that folds: the beat over the first of its bytes. -/
theorem State.Folding.step {s : State} {xs ys : List Byte} (h : s.Folding (xs ++ ys)) (hbusy : s.BUSY = true)
    (hlength : xs.length = s.beatWidth) : Machine.step s = .next (s.afterFold xs) :=
  step_of_beating_holds (h.alone.beating h.notFaulted hbusy) hlength (Memory.holds_append_iff.1 h.holds).1

/-- The induction over the beats of a state that folds: it holds with none left, and for a beat and the others if for
the others. -/
theorem State.Folding.induction {P : State → List Byte → Prop}
    (idle : ∀ s, s.Folding [] → s.BUSY = false → P s [])
    (beat : ∀ s xs ys, s.Folding (xs ++ ys) → s.BUSY = true → xs.length = s.beatWidth → P (s.afterFold xs) ys →
      P s (xs ++ ys)) {s : State} {bs : List Byte} (h : s.Folding bs) : P s bs := by
  induction hn : s.beatsLeft generalizing s bs with
  | zero =>
    obtain ⟨hwords, hbytes⟩ := Nat.add_eq_zero_iff.1 hn
    have hlength := h.length
    rw [State.bytesLeft, hwords, hbytes] at hlength
    obtain rfl := List.eq_nil_of_length_eq_zero hlength
    exact idle s h (s.BUSY_eq_false_iff.2 ⟨hwords, hbytes⟩)
  | succ n ih =>
    have hbusy : s.BUSY = true := s.BUSY_eq_true_iff.2 (hn ▸ Nat.succ_pos n)
    have hlength : (bs.take s.beatWidth).length = s.beatWidth :=
      List.length_take_of_le (h.length ▸ State.beatWidth_le_bytesLeft hbusy)
    rw [← List.take_append_drop s.beatWidth bs] at h ⊢
    have hcount := State.afterFold_beatsLeft hbusy (bs.take s.beatWidth)
    exact beat s _ _ h hbusy hlength (ih (h.afterFold hbusy hlength) (by omega))

/-- The state in which the beats over `bs` end: the bytes folded, PTR past them, and as many turns taken as beats were
left. -/
def State.completed (s : State) (bs : List Byte) : State :=
  { s with
    R := fold s.R bs
    PTR := s.PTR + bs.length
    WORDS := 0
    BYTES := 0
    turns := s.turns.drop s.beatsLeft }

/-- The beats leave no host move where there was none. -/
theorem State.hostDone_completed {s : State} (h : s.hostDone = true) (bs : List Byte) :
    (s.completed bs).hostDone = true :=
  List.all_eq_true.2 fun u hu => List.all_eq_true.1 h u (List.mem_of_mem_drop hu)

/-- The end of the other beats is the end of all. -/
theorem State.completed_afterFold {s : State} (hbusy : s.BUSY = true) (xs ys : List Byte) :
    (s.afterFold xs).completed ys = s.completed (xs ++ ys) := by
  have hptr : s.PTR + xs.length + ys.length = s.PTR + (xs ++ ys).length := by rw [List.length_append, Nat.add_assoc]
  have hturns : s.turns.tail.drop (s.afterFold xs).beatsLeft = s.turns.drop s.beatsLeft := by
    rw [← State.afterFold_beatsLeft hbusy xs, List.drop_tail]
  simp only [State.completed, hturns.symm, ← hptr, fold_append]
  rfl

/-- The beats over bytes that stand in memory fold them, one step for each, and change nothing else (R146, R148). -/
theorem State.Folding.run_eq {s : State} {bs : List Byte} (h : s.Folding bs) :
    run s.beatsLeft s = .next (s.completed bs) := by
  refine h.induction (P := fun s bs => run s.beatsLeft s = .next (s.completed bs)) (fun s _ hbusy => ?_)
    fun s xs ys h hbusy hlength ih => ?_
  · obtain ⟨hwords, hbytes⟩ := s.BUSY_eq_false_iff.1 hbusy
    rw [State.completed, State.beatsLeft, hwords, hbytes]
    cases s
    cases hwords
    cases hbytes
    rfl
  · rw [← State.afterFold_beatsLeft hbusy xs, run_succ_of_next (h.step hbusy hlength), ih,
      State.completed_afterFold hbusy]

/-! ## Beats over an unreadable byte -/

/-- CORE alone has bytes left to fold of which `a` is the lowest address that is not readable. -/
structure State.FoldingUpTo (s : State) (a : Nat) : Prop where
  alone : s.CoreAlone
  notFaulted : s.FAULT = false
  lo : s.PTR ≤ a
  hi : a < s.PTR + s.bytesLeft
  unreadable : s.mem.read a = none
  readable : s.mem.readable s.PTR a

/-- A byte is left to fold. -/
theorem State.FoldingUpTo.BUSY {s : State} {a : Nat} (h : s.FoldingUpTo a) : s.BUSY = true := by
  have hlo := h.lo
  have hhi := h.hi
  by_contra hbusy
  obtain ⟨hwords, hbytes⟩ := s.BUSY_eq_false_iff.1 (Bool.eq_false_of_not_eq_true hbusy)
  rw [State.bytesLeft, hwords, hbytes] at hhi
  omega

/-- `a` is still ahead after a beat that does not reach it. -/
theorem State.FoldingUpTo.afterFold {s : State} {a : Nat} {xs : List Byte} (h : s.FoldingUpTo a)
    (hlength : xs.length = s.beatWidth) (ha : s.PTR + s.beatWidth ≤ a) : (s.afterFold xs).FoldingUpTo a := by
  have hptr := State.afterFold_PTR hlength
  have hbytes := State.afterFold_bytesLeft h.BUSY xs
  have hhi := h.hi
  exact ⟨h.alone.of_popTurn rfl rfl, h.notFaulted, hptr ▸ ha, by rw [hptr]; omega, h.unreadable,
    h.readable.subrange (Nat.le_add_right _ _) (Nat.le_refl _)⟩

/-- `t` has the output register, the memory and the presented command of `s`. -/
structure State.SameResultMemoryCommand (s t : State) : Prop where
  RESULT : t.RESULT = s.RESULT
  mem : t.mem = s.mem
  CMD_VALID : t.CMD_VALID = s.CMD_VALID
  presented : t.presented = s.presented

/-- The beats over an unreadable byte end in BUS with its address, within as many steps as beats are left (R146,
R172). -/
theorem State.FoldingUpTo.exists_run {s : State} {a : Nat} (h : s.FoldingUpTo a) :
    ∃ n u, n ≤ s.beatsLeft ∧ run n s = .next (u.raiseFault .bus (BitVec.ofNat 64 a)) ∧
      s.SameResultMemoryCommand u := by
  induction hn : s.beatsLeft generalizing s with
  | zero => exact absurd hn (Nat.pos_iff_ne_zero.1 (s.BUSY_eq_true_iff.1 h.BUSY))
  | succ n ih =>
    have hbeat := h.alone.beating h.notFaulted h.BUSY
    rcases Nat.lt_or_ge a (s.PTR + s.beatWidth) with ha | ha
    · exact ⟨1, s.popTurn, Nat.succ_pos n, run_succ_of_next (step_of_beating_bus hbeat h.lo ha h.unreadable h.readable),
        rfl, rfl, rfl, rfl⟩
    · obtain ⟨xs, hread⟩ := Memory.exists_readBytes_of_readable (h.readable.subrange (Nat.le_refl _) ha)
      obtain ⟨hlength, hholds⟩ := Memory.readBytes_ok hread
      have hcount := State.afterFold_beatsLeft h.BUSY xs
      obtain ⟨k, u, hk, hrun, hu⟩ := ih (h.afterFold hlength ha) (by omega)
      exact ⟨k + 1, u, Nat.succ_le_succ hk, (run_succ_of_next (step_of_beating_holds hbeat hlength hholds)).trans hrun,
        hu.RESULT, hu.mem, hu.CMD_VALID, hu.presented⟩

/-- CORE alone, without a fault, has bytes left to fold that stand in memory, or one of them is not readable. -/
theorem State.CoreAlone.folding_or_foldingUpTo {s : State} (h : s.CoreAlone) (hfault : s.FAULT = false) :
    (∃ bs, s.Folding bs) ∨ ∃ a, s.FoldingUpTo a := by
  cases hread : s.mem.readBytes s.PTR s.bytesLeft with
  | ok bs =>
    obtain ⟨hlength, hholds⟩ := Memory.readBytes_ok hread
    exact .inl ⟨bs, h, hfault, hlength, hholds⟩
  | error a =>
    obtain ⟨hlo, hhi, hnone, hbelow⟩ := Memory.readBytes_error_iff.1 hread
    exact .inr ⟨a, h, hfault, hlo, hhi, hnone, hbelow⟩

/-- No more beats are left than the ranges of WORDS and BYTES allow (R30, R119). -/
theorem State.Inv.beatsLeft_le {s : State} (h : s.Inv) :
    s.beatsLeft ≤ (2 ^ 64 - 1) / s.cfg.W.bytes + s.cfg.W.bytes - 1 := by
  have hwords := h.wordsRange
  have hbytes := h.bytesRange
  rw [State.beatsLeft]
  omega

/-- Settles O45: the beats left are at most so many, and they end with all bytes folded or in BUS; neither writes the
command port. -/
theorem everyUpdateEnds : Obligations.EveryUpdateEnds := by
  unfold Obligations.EveryUpdateEnds
  intro s hinv hbusy hreset hdone
  have hfault : s.FAULT = false := by
    by_contra hf
    exact Bool.false_ne_true ((hinv.faultIdle (Bool.eq_true_of_not_eq_false hf)).symm.trans hbusy)
  have halone : s.CoreAlone := ⟨hdone, hreset⟩
  obtain ⟨bs, h⟩ | ⟨a, h⟩ := halone.folding_or_foldingUpTo hfault
  · refine ⟨_, _, hinv.beatsLeft_le, h.run_eq, rfl, rfl, rfl, fun hvalid _ => ?_⟩
    have hturn := State.coreTurn_of_hostDone (State.hostDone_completed hdone bs)
    exact (State.accepting_iff _).2 ⟨hturn, hreset, rfl, hfault, hvalid⟩
  · obtain ⟨n, u, hn, hrun, hu⟩ := h.exists_run
    exact ⟨n, _, hn.trans hinv.beatsLeft_le, hrun, rfl, hu.CMD_VALID, hu.presented,
      fun _ hnot => absurd hnot Bool.noConfusion⟩

end Sys2Proof.Machine
end

section
/-! PROOFS. A whole UPDATE, from its acceptance to its end (43_update_command.md R141 to R149): what it computes for
either word width, which addresses it reads, and where it ends in BUS. -/

namespace Sys2Proof.Machine

/-! ## The start -/

/-- The state that UPDATE of a buffer inside the space starts from (R141); PTR stays for length 0 (R142). -/
def State.started (s : State) (base len : Word64) : State :=
  { s with
    PTR := if len = 0 then s.PTR else base.toNat
    WORDS := len.toNat / s.cfg.W.bytes
    BYTES := len.toNat % s.cfg.W.bytes }

/-- UPDATE inside the space, of length 0 or not, starts from there where nothing is in flight (R141, R142). -/
theorem exec_update_of_idle {s : State} {base len : Word64} (hbusy : s.BUSY = false)
    (hspace : base.toNat + len.toNat ≤ s.cfg.space) : exec (.update base len) s = .next (s.started base len) := by
  by_cases hlen : len = 0
  · obtain ⟨hwords, hbytes⟩ := s.BUSY_eq_false_iff.1 hbusy
    have hkept : s.started base 0 = s := by
      cases s
      cases hwords
      cases hbytes
      simp [State.started]
    rw [hlen, exec_update_zero, hkept]
  · rw [exec_update_of_le hlen hspace, State.started, if_neg hlen]
    rfl

/-- All bytes of the buffer are left at the start (R140). -/
theorem State.started_bytesLeft (s : State) (base len : Word64) : (s.started base len).bytesLeft = len.toNat :=
  Nat.div_add_mod len.toNat s.cfg.W.bytes

/-- The buffer's bytes are the ones ahead of PTR at the start. -/
theorem State.started_holds {s : State} {base len : Word64} {bs : List Byte} (hlength : bs.length = len.toNat)
    (hholds : s.mem.holds base.toNat bs) : (s.started base len).mem.holds (s.started base len).PTR bs := by
  by_cases hlen : len = 0
  · rw [hlen] at hlength
    obtain rfl := List.eq_nil_of_length_eq_zero hlength
    exact fun i hi => absurd hi (Nat.not_lt_zero i)
  · rw [State.started, if_neg hlen]
    exact hholds

/-- After the start of an UPDATE of bytes that stand in memory, CORE alone folds them. -/
theorem State.started_folding {s : State} {base len : Word64} {bs : List Byte} (halone : s.CoreAlone)
    (hfault : s.FAULT = false) (hlength : bs.length = len.toNat) (hholds : s.mem.holds base.toNat bs) :
    (s.started base len).Folding bs :=
  ⟨⟨halone.hostDone, halone.RESET⟩, hfault, hlength.trans (s.started_bytesLeft base len).symm,
    State.started_holds hlength hholds⟩

/-- An accepted UPDATE is decoded the same for every word width (R74). -/
theorem decode_update_of_decode_update {W : WordWidth} {c : Command} {base len : Word64}
    (h : decode W c = .ok (.update base len)) (W' : WordWidth) : decode W' c = .ok (.update base len) := by
  have hop : decodeOp c.CMD = .ok .update := decodeOp_eq_ok_iff.2 (CMD_eq_cmdWord_of_decode h)
  exact (decode_of_decodeOp hop).trans ((decode_of_decodeOp (W := W) hop).symm.trans h)

/-! ## The end, over bytes in memory -/

/-- The step that accepts an UPDATE inside the space (R119, R141). -/
theorem step_of_accepting_update_started {s : State} {base len : Word64} (haccept : s.accepting = true)
    (hdecode : decode s.cfg.W s.presented = .ok (.update base len)) (hspace : base.toNat + len.toNat ≤ s.cfg.space) :
    step s = .next (s.popTurn.consume.started base len) := by
  obtain ⟨-, -, hbusy, -⟩ := s.accepting_iff.1 haccept
  rw [step_of_accepting haccept, accept_of_decode (s := s.popTurn) hdecode]
  exact exec_update_of_idle hbusy hspace

/-- The state in which an accepted UPDATE ends: its command taken, its bytes folded. -/
def State.updated (s : State) (base len : Word64) (bs : List Byte) : State :=
  (s.popTurn.consume.started base len).completed bs

/-- Where CORE is alone in an accepting state, it is so after the turn is taken. -/
theorem State.coreAlone_popTurn_consume {s : State} (haccept : s.accepting = true) (hdone : s.hostDone = true) :
    s.popTurn.consume.CoreAlone := by
  obtain ⟨-, hreset, -⟩ := s.accepting_iff.1 haccept
  exact ⟨State.hostDone_popTurn hdone, hreset⟩

/-- An accepted UPDATE of bytes that stand in memory ends after its accept step and `q + r` beats (R147, R148). -/
theorem run_update {s : State} {base len : Word64} {bs : List Byte} (haccept : s.accepting = true)
    (hdone : s.hostDone = true) (hdecode : decode s.cfg.W s.presented = .ok (.update base len))
    (hspace : base.toNat + len.toNat ≤ s.cfg.space) (hlength : bs.length = len.toNat)
    (hholds : s.mem.holds base.toNat bs) :
    run (1 + (len.toNat / s.cfg.W.bytes + len.toNat % s.cfg.W.bytes)) s = .next (s.updated base len bs) := by
  obtain ⟨-, -, -, hfault, -⟩ := s.accepting_iff.1 haccept
  rw [Nat.add_comm, run_succ_of_next (step_of_accepting_update_started haccept hdecode hspace)]
  exact (State.started_folding (s := s.popTurn.consume) (State.coreAlone_popTurn_consume haccept hdone) hfault hlength
    hholds).run_eq

/-- READY is 1 at the end of an UPDATE that was accepted (R147). -/
theorem State.updated_READY {s : State} (haccept : s.accepting = true) (base len : Word64) (bs : List Byte) :
    (s.updated base len bs).READY = true := by
  obtain ⟨-, -, -, hfault, -⟩ := s.accepting_iff.1 haccept
  exact (State.READY_eq_true_iff _).2 ⟨rfl, hfault⟩

/-- Settles O38: the end of an accepted UPDATE, with READY 1 and the bytes folded. -/
theorem updateFoldsTheBuffer : Obligations.UpdateFoldsTheBuffer := by
  unfold Obligations.UpdateFoldsTheBuffer
  intro s base len bs haccept hdone hdecode hspace hlength hholds
  exact ⟨_, run_update haccept hdone hdecode hspace hlength hholds, State.updated_READY haccept base len bs, rfl⟩

/-- Settles O41: for each width the end is the same function of the start, in which the width sets only how many turns
are taken. -/
theorem wordWidthIsNotObservable : Obligations.WordWidthIsNotObservable := by
  unfold Obligations.WordWidthIsNotObservable
  intro s W' base len haccept hdone hdecode hspace hreadable
  obtain ⟨bs, hread⟩ := Memory.exists_readBytes_of_readable hreadable
  obtain ⟨hlength, hholds⟩ := Memory.readBytes_ok hread
  have haccept' : State.accepting { s with cfg := { s.cfg with W := W' } } = true := haccept
  have hdecode' := decode_update_of_decode_update hdecode W'
  exact ⟨_, _, run_update haccept hdone hdecode hspace hlength hholds,
    run_update haccept' hdone hdecode' hspace hlength hholds, rfl, rfl, State.updated_READY haccept base len bs,
    rfl, rfl, State.updated_READY haccept' base len bs, rfl⟩

/-! ## The end, over an unreadable byte -/

/-- The space has at most `2^64` addresses (00_scope.md R6). -/
theorem space_le_two_pow (c : Config) : c.space ≤ 2 ^ 64 :=
  Nat.pow_le_pow_right (by decide) c.aw.isLt

/-- Settles O40: after the accept step the address is ahead of PTR, and the beats end in BUS with it; as an address of
the space it fits FAULT_INFO. -/
theorem updateReportsTheLowestUnreadableAddress : Obligations.UpdateReportsTheLowestUnreadableAddress := by
  unfold Obligations.UpdateReportsTheLowestUnreadableAddress
  intro s base len a haccept hdone hdecode hspace hlo hhi hnone hbelow
  obtain ⟨-, -, -, hfault, -⟩ := s.accepting_iff.1 haccept
  have hlen : len ≠ 0 := by
    rintro rfl
    exact Nat.not_lt.2 hlo hhi
  have hptr : (s.popTurn.consume.started base len).PTR = base.toNat := if_neg hlen
  have hfolding : (s.popTurn.consume.started base len).FoldingUpTo a := by
    obtain ⟨hturns, hreset⟩ := State.coreAlone_popTurn_consume haccept hdone
    refine ⟨⟨hturns, hreset⟩, hfault, ?_, ?_, hnone, ?_⟩
    · rw [hptr]
      exact hlo
    · rw [hptr, State.started_bytesLeft]
      exact hhi
    · rw [hptr]
      exact hbelow
  obtain ⟨n, u, hn, hrun, hresult, hmem, -, -⟩ := hfolding.exists_run
  have hstep := step_of_accepting_update_started haccept hdecode hspace
  have h64 : a < 2 ^ 64 := (hhi.trans_le hspace).trans_le (space_le_two_pow s.cfg)
  refine ⟨n + 1, _, ?_, (run_succ_of_next hstep).trans hrun, rfl, rfl, State.raiseFault_bus_STATUS _ _, ?_, hresult,
    hmem⟩
  · rw [Nat.add_comm]
    exact Nat.add_le_add_left hn 1
  · rw [State.raiseFault_FAULT_INFO, BitVec.toNat_ofNat, Nat.mod_eq_of_lt h64]

end Sys2Proof.Machine
end

section
/-! PROOFS. The addresses an UPDATE reads (20_memory.md R58): its buffer's, each once and in ascending order. -/

namespace Sys2Proof.Machine

/-! ## Nothing is read -/

/-- CORE alone has nothing to do: it is faulted, or nothing is in flight and no command is presented. -/
structure State.Quiet (s : State) : Prop where
  alone : s.CoreAlone
  faultedOrIdle : s.FAULT = true ∨ (s.BUSY = false ∧ s.CMD_VALID = false)

/-- A quiet step is no beat (R145, R175). -/
theorem State.Quiet.beating {s : State} (h : s.Quiet) : s.beating = false := by
  rcases h.faultedOrIdle with hfault | ⟨hbusy, -⟩
  · simp [State.beating, hfault]
  · exact State.beating_of_not_BUSY hbusy

/-- A quiet step changes nothing but the turns (logs 6 and 7). -/
theorem State.Quiet.step {s : State} (h : s.Quiet) : Machine.step s = .next s.popTurn := by
  rw [step_of_coreTurn (State.coreTurn_of_hostDone h.alone.hostDone)]
  rcases h.faultedOrIdle with hfault | ⟨hbusy, hvalid⟩
  · simp [coreStep, h.alone.RESET, hfault]
  · simp [coreStep, h.alone.RESET, hbusy, hvalid]

/-- From a quiet state on nothing is read. -/
theorem State.Quiet.addressesRead {s : State} (h : s.Quiet) (k : Nat) : Machine.addressesRead k s = [] := by
  induction k generalizing s with
  | zero => rfl
  | succ k ih =>
    rw [addressesRead_of_not_beating h.beating h.step]
    exact ih ⟨h.alone.of_popTurn rfl rfl, h.faultedOrIdle⟩

/-! ## The beats -/

/-- `n` addresses from `lo` up, in ascending order. -/
def addressesFrom (lo n : Nat) : List Nat := (List.range n).map (lo + ·)

/-- The addresses of two ranges, one after the other. -/
theorem addressesFrom_add (lo m n : Nat) :
    addressesFrom lo (m + n) = addressesFrom lo m ++ addressesFrom (lo + m) n := by
  simp only [addressesFrom, List.range_add, List.map_append, List.map_map, Function.comp_def, Nat.add_assoc]

/-- A beat reads the bytes it needs, and the addresses of a run are those and the ones of the rest (R143, R144, R58). -/
theorem addressesRead_of_beating {s t : State} (hbeat : s.beating = true) (h : step s = .next t) (k : Nat) :
    addressesRead (k + 1) s = addressesFrom s.PTR s.beatWidth ++ addressesRead k t := by
  obtain ⟨-, -, hbusy, hfault⟩ := s.beating_iff.1 hbeat
  have hbeatAddresses : s.beatAddresses = addressesFrom s.PTR s.beatWidth := by
    simp only [State.beatAddresses, hbusy, hfault, Bool.not_false, Bool.and_true, if_true]
    rfl
  simp only [addressesRead, hbeat, if_true, h, hbeatAddresses]

/-- The beats over bytes that stand in memory read each of their addresses once, in ascending order (R58). -/
theorem State.Folding.addressesRead_eq {s : State} {bs : List Byte} (h : s.Folding bs) :
    addressesRead s.beatsLeft s = addressesFrom s.PTR bs.length := by
  refine h.induction (P := fun s bs => addressesRead s.beatsLeft s = addressesFrom s.PTR bs.length)
    (fun s _ hbusy => ?_) fun s xs ys h hbusy hlength ih => ?_
  · obtain ⟨hwords, hbytes⟩ := s.BUSY_eq_false_iff.1 hbusy
    rw [State.beatsLeft, hwords, hbytes]
    rfl
  · have hbeat := h.alone.beating h.notFaulted hbusy
    rw [← State.afterFold_beatsLeft hbusy xs, addressesRead_of_beating hbeat (h.step hbusy hlength), ih,
      List.length_append, addressesFrom_add, hlength, State.afterFold_PTR hlength]

/-- A beat step folds the bytes it needs, or enters a BUS fault (R145, R146). -/
theorem step_fold_or_bus_of_beating {s : State} (hbeat : s.beating = true) :
    (∃ xs, xs.length = s.beatWidth ∧ step s = .next (s.afterFold xs)) ∨
    ∃ a, step s = .next (s.popTurn.raiseFault .bus (BitVec.ofNat 64 a)) := by
  cases hread : s.mem.readBytes s.PTR s.beatWidth with
  | ok xs =>
    obtain ⟨hlength, hholds⟩ := Memory.readBytes_ok hread
    exact .inl ⟨xs, hlength, step_of_beating_holds hbeat hlength hholds⟩
  | error a =>
    obtain ⟨hlo, hhi, hnone, hbelow⟩ := Memory.readBytes_error_iff.1 hread
    exact .inr ⟨a, step_of_beating_bus hbeat hlo hhi hnone hbelow⟩

/-- The addresses read in any number of steps are the first of those of the bytes left, where no command is presented
(R58). -/
theorem State.CoreAlone.addressesRead_prefix {s : State} (h : s.CoreAlone) (hvalid : s.CMD_VALID = false) (k : Nat) :
    addressesRead k s <+: addressesFrom s.PTR s.bytesLeft := by
  induction k generalizing s with
  | zero => exact List.nil_prefix
  | succ k ih =>
    cases hfault : s.FAULT with
    | true =>
      rw [State.Quiet.addressesRead ⟨h, .inl hfault⟩]
      exact List.nil_prefix
    | false =>
      cases hbusy : s.BUSY with
      | false =>
        rw [State.Quiet.addressesRead ⟨h, .inr ⟨hbusy, hvalid⟩⟩]
        exact List.nil_prefix
      | true =>
        have hbeat := h.beating hfault hbusy
        obtain ⟨xs, hlength, hstep⟩ | ⟨a, hstep⟩ := step_fold_or_bus_of_beating hbeat
        · have hrest := ih (h.step hstep) hvalid
          rw [State.afterFold_PTR hlength] at hrest
          rw [addressesRead_of_beating hbeat hstep, ← State.afterFold_bytesLeft hbusy xs, addressesFrom_add]
          exact (List.prefix_append_right_inj _).2 hrest
        · rw [addressesRead_of_beating hbeat hstep, State.Quiet.addressesRead ⟨h.step hstep, .inl rfl⟩,
            List.append_nil, ← State.afterFold_bytesLeft hbusy [], addressesFrom_add]
          exact List.prefix_append _ _

/-! ## The UPDATE -/

/-- An accept step is no beat. -/
theorem State.beating_of_accepting {s : State} (h : s.accepting = true) : s.beating = false := by
  obtain ⟨-, -, hbusy, -⟩ := s.accepting_iff.1 h
  exact State.beating_of_not_BUSY hbusy

/-- The step that accepts an UPDATE past the top of the space (R171). -/
theorem step_of_accepting_update_range {s : State} {base len : Word64} (haccept : s.accepting = true)
    (hdecode : decode s.cfg.W s.presented = .ok (.update base len)) (hlen : len ≠ 0)
    (hspace : base.toNat + len.toNat > s.cfg.space) :
    step s = .next (s.popTurn.consume.raiseFault .range base) := by
  rw [step_of_accepting haccept, accept_of_decode (s := s.popTurn) hdecode]
  exact exec_update_of_gt hlen hspace

/-- An UPDATE past the top of the space reads nothing (R58, R171). -/
theorem addressesRead_of_range {s : State} {base len : Word64} (haccept : s.accepting = true)
    (hdone : s.hostDone = true) (hdecode : decode s.cfg.W s.presented = .ok (.update base len)) (hlen : len ≠ 0)
    (hspace : base.toNat + len.toNat > s.cfg.space) (k : Nat) : addressesRead k s = [] := by
  cases k with
  | zero => rfl
  | succ k =>
    obtain ⟨hturns, hreset⟩ := State.coreAlone_popTurn_consume haccept hdone
    rw [addressesRead_of_not_beating (State.beating_of_accepting haccept)
      (step_of_accepting_update_range haccept hdecode hlen hspace)]
    have hfaulted : (s.popTurn.consume.raiseFault .range base).Quiet := ⟨⟨hturns, hreset⟩, .inl rfl⟩
    exact hfaulted.addressesRead k

/-- Settles O39: after the accept step the beats read the buffer's addresses in order and stop at a fault; a RANGE fault
comes before any of them, and a faulted CORE reads nothing. -/
theorem updateReadsEachAddressOnceAscending : Obligations.UpdateReadsEachAddressOnceAscending := by
  unfold Obligations.UpdateReadsEachAddressOnceAscending
  intro s base len haccept hdone hdecode hlen
  have halone := State.coreAlone_popTurn_consume haccept hdone
  have hnobeat := State.beating_of_accepting haccept
  have hptr : (s.popTurn.consume.started base len).PTR = base.toNat := if_neg hlen
  refine ⟨fun k => ?_, fun hspace hreadable => ?_, addressesRead_of_range haccept hdone hdecode hlen,
    fun k n t hrun hfault => ?_⟩
  · rcases Nat.lt_or_ge s.cfg.space (base.toNat + len.toNat) with hspace | hspace
    · rw [addressesRead_of_range haccept hdone hdecode hlen hspace]
      exact List.nil_prefix
    · cases k with
      | zero => exact List.nil_prefix
      | succ k =>
        have hstarted : (s.popTurn.consume.started base len).CoreAlone := ⟨halone.hostDone, halone.RESET⟩
        have hprefix := hstarted.addressesRead_prefix rfl k
        rw [hptr, State.started_bytesLeft] at hprefix
        rw [addressesRead_of_not_beating hnobeat (step_of_accepting_update_started haccept hdecode hspace)]
        exact hprefix
  · obtain ⟨bs, hread⟩ := Memory.exists_readBytes_of_readable hreadable
    obtain ⟨hlength, hholds⟩ := Memory.readBytes_ok hread
    obtain ⟨-, -, -, hfault, -⟩ := s.accepting_iff.1 haccept
    have hall := (State.started_folding (s := s.popTurn.consume) halone hfault hlength hholds).addressesRead_eq
    rw [hptr, hlength] at hall
    rw [Nat.add_comm, addressesRead_of_not_beating hnobeat (step_of_accepting_update_started haccept hdecode hspace)]
    exact hall
  · have hs : s.CoreAlone := ⟨hdone, halone.RESET⟩
    exact State.Quiet.addressesRead ⟨hs.run hrun, .inl hfault⟩ n

end Sys2Proof.Machine
end

section
/-! PROOFS. Sequences of commands that the host presents one after another (43_update_command.md R149,
70_reset_and_hazards.md R206): each is presented, held behind the beats of the one before, and accepted. -/

namespace Sys2Proof.Machine

/-- What an assembler emits is decoded on the port as the instruction it was, where no field bounds it (R77). -/
theorem decode_encode {W : WordWidth} {i : Instr} (h : i.wellFormed W = true) : decode W (encode i) = .ok i :=
  decodeOfEncodeIsTheInstruction W i h

/-! ## Present and accept -/

/-- The host's turn that presents a command where none is presented (R32). -/
theorem step_of_present {s : State} {c : Command} {rest : List Turn} (hturns : s.turns = .host (.present c) :: rest)
    (hvalid : s.CMD_VALID = false) : step s = .next (s.popTurn.present c) := by
  rw [step_of_host hturns, hostMove, presentCommand, if_neg (by simp [hvalid])]

/-- The state after the host has presented `c` and CORE has taken it off the port, with the turns `rest` left. -/
def State.taking (s : State) (c : Command) (rest : List Turn) : State :=
  { s with CMD_VALID := false, CMD := c.CMD, A := c.A, B := c.B, turns := rest }

/-- A command that is presented to a ready CORE and then accepted is executed (R119). -/
theorem run_present_accept {s t : State} {c : Command} {i : Instr} {rest : List Turn}
    (hturns : s.turns = .host (.present c) :: .core :: rest) (hready : s.READY = true) (hreset : s.RESET = false)
    (hvalid : s.CMD_VALID = false) (hdecode : decode s.cfg.W c = .ok i) (hexec : exec i (s.taking c rest) = .next t) :
    run 2 s = .next t := by
  obtain ⟨hbusy, hfault⟩ := s.READY_eq_true_iff.1 hready
  have hnext : (s.popTurn.present c).turns = .core :: rest := by
    rw [State.present_turns, State.popTurn_turns, hturns, List.tail_cons]
  have haccept : (s.popTurn.present c).accepting = true :=
    (State.accepting_iff _).2 ⟨by rw [State.coreTurn, hnext], hreset, hbusy, hfault, rfl⟩
  have htaking : (s.popTurn.present c).popTurn.consume = s.taking c rest := by
    rw [State.popTurn_of_cons hnext]
    rfl
  have hstep : step (s.popTurn.present c) = .next t := by
    rw [step_of_accepting haccept, accept_of_decode (s := (s.popTurn.present c).popTurn) hdecode, htaking, hexec]
  rw [run_succ_of_next (step_of_present hturns hvalid), run_succ_of_next hstep, run_zero]

/-- The state after the host has presented LOAD v and CORE has accepted it. -/
def State.afterLoad (s : State) (v : Word32) (rest : List Turn) : State :=
  (s.taking (encode (.load v)) rest).setR (v ^^^ K)

/-- LOAD presented to a ready CORE and accepted (R121). -/
theorem run_present_load {s : State} {v : Word32} {rest : List Turn}
    (hturns : s.turns = .host (.present (encode (.load v))) :: .core :: rest) (hready : s.READY = true)
    (hreset : s.RESET = false) (hvalid : s.CMD_VALID = false) : run 2 s = .next (s.afterLoad v rest) :=
  run_present_accept hturns hready hreset hvalid (decode_encode rfl) (exec_load v _)

/-- The state after the host has presented UPDATE and CORE has accepted it. -/
def State.afterUpdate (s : State) (base len : Word64) (rest : List Turn) : State :=
  (s.taking (encode (.update base len)) rest).started base len

/-- UPDATE inside the space presented to a ready CORE and accepted (R141, R142). -/
theorem run_present_update {s : State} {base len : Word64} {rest : List Turn}
    (hturns : s.turns = .host (.present (encode (.update base len))) :: .core :: rest) (hready : s.READY = true)
    (hreset : s.RESET = false) (hvalid : s.CMD_VALID = false) (hspace : base.toNat + len.toNat ≤ s.cfg.space) :
    run 2 s = .next (s.afterUpdate base len rest) := by
  obtain ⟨hbusy, -⟩ := s.READY_eq_true_iff.1 hready
  exact run_present_accept hturns hready hreset hvalid (decode_encode rfl)
    (exec_update_of_idle (s := s.taking _ rest) hbusy hspace)

/-! ## The hold -/

/-- The state in which the beats over `bs` end with `c` presented behind them (R204). -/
def State.holding (s : State) (c : Command) (bs : List Byte) : State := (s.popTurn.present c).completed bs

/-- A command that is the host's last move is held behind the beats over bytes that stand in memory, and is the next one
to be accepted (R119, R204). -/
theorem run_present_beats {s : State} {c : Command} {bs : List Byte} (hturns : s.turns = [.host (.present c)])
    (hreset : s.RESET = false) (hfault : s.FAULT = false) (hvalid : s.CMD_VALID = false)
    (hlength : bs.length = s.bytesLeft) (hholds : s.mem.holds s.PTR bs) :
    run (1 + s.beatsLeft) s = .next (s.holding c bs) ∧ (s.holding c bs).accepting = true ∧
      (s.holding c bs).hostDone = true := by
  have hdone : (s.popTurn.present c).hostDone = true := by
    rw [State.hostDone, State.present_turns, State.popTurn_turns, hturns]
    rfl
  have hfolding : (s.popTurn.present c).Folding bs := ⟨⟨hdone, hreset⟩, hfault, hlength, hholds⟩
  have hdone' : (s.holding c bs).hostDone = true := State.hostDone_completed hdone bs
  refine ⟨?_, (State.accepting_iff _).2 ⟨State.coreTurn_of_hostDone hdone', hreset, rfl, hfault, rfl⟩, hdone'⟩
  rw [Nat.add_comm, run_succ_of_next (step_of_present hturns hvalid)]
  exact hfolding.run_eq

/-- A command presented behind an UPDATE of bytes that stand in memory is held until they are folded (R149, R206). -/
theorem run_present_update_beats {s : State} {base len : Word64} {c : Command} {bs : List Byte}
    (hturns : s.turns = [.host (.present (encode (.update base len))), .core, .host (.present c)])
    (hready : s.READY = true) (hreset : s.RESET = false) (hvalid : s.CMD_VALID = false)
    (hspace : base.toNat + len.toNat ≤ s.cfg.space) (hlength : bs.length = len.toNat)
    (hholds : s.mem.holds base.toNat bs) :
    run (2 + (1 + (len.toNat / s.cfg.W.bytes + len.toNat % s.cfg.W.bytes))) s =
        .next ((s.afterUpdate base len [.host (.present c)]).holding c bs) ∧
      ((s.afterUpdate base len [.host (.present c)]).holding c bs).accepting = true ∧
      ((s.afterUpdate base len [.host (.present c)]).holding c bs).hostDone = true := by
  obtain ⟨-, hfault⟩ := s.READY_eq_true_iff.1 hready
  obtain ⟨hbeats, haccept, hdone⟩ := run_present_beats (s := s.afterUpdate base len [.host (.present c)]) rfl hreset
    hfault rfl (hlength.trans (State.started_bytesLeft _ _ _).symm) (State.started_holds hlength hholds)
  exact ⟨(run_add_of_next (run_present_update hturns hready hreset hvalid hspace)).trans hbeats, haccept, hdone⟩

/-! ## The end -/

/-- A run ends well where CORE has nothing to do, without a fault, and the host has no move left (R208). -/
theorem State.endedWell_iff (s : State) :
    s.endedWell = true ↔ s.FAULT = false ∧ s.BUSY = false ∧ s.CMD_VALID = false ∧ s.hostDone = true := by
  simp [State.endedWell, and_assoc]

/-- A run whose last step accepts an UPDATE of bytes that stand in memory ends well (R208). -/
theorem State.updated_endedWell {s : State} (haccept : s.accepting = true) (hdone : s.hostDone = true)
    (base len : Word64) (bs : List Byte) : (s.updated base len bs).endedWell = true := by
  obtain ⟨-, -, -, hfault, -⟩ := s.accepting_iff.1 haccept
  have hdone' : (s.popTurn.consume.started base len).hostDone = true := State.hostDone_popTurn hdone
  exact (State.endedWell_iff _).2 ⟨hfault, rfl, rfl, State.hostDone_completed hdone' bs⟩

/-- The step that accepts READ (R122). -/
theorem step_of_accepting_read {s : State} (haccept : s.accepting = true)
    (hdecode : decode s.cfg.W s.presented = .ok .read) :
    step s = .next (s.popTurn.consume.setRESULT (s.R ^^^ K)) := by
  rw [step_of_accepting haccept, accept_of_decode (s := s.popTurn) hdecode]
  exact exec_read _

/-! ## The statements -/

/-- Settles O42: LOAD and UPDATE are accepted on their turns, READ is held behind the beats, and what it reads is the
fold from the loaded remainder. -/
theorem loadUpdateReadComputesTheChecksum : Obligations.LoadUpdateReadComputesTheChecksum := by
  unfold Obligations.LoadUpdateReadComputesTheChecksum
  intro s v base len bs hready hreset hvalid hcause hturns hspace hlength hholds
  obtain ⟨-, hfault⟩ := s.READY_eq_true_iff.1 hready
  have hload := run_present_load hturns hready hreset hvalid
  obtain ⟨hupdate, haccept, hdone⟩ :=
    run_present_update_beats (s := s.afterLoad v _) (c := encode .read) rfl hready hreset rfl hspace hlength hholds
  have hread := step_of_accepting_read haccept (decode_encode (i := .read) rfl)
  have hrun := (run_add_of_next hload).trans ((run_add_of_next hupdate).trans (run_succ_of_next (k := 0) hread))
  have hcount (n : Nat) : 6 + n = 2 + (2 + (1 + n) + 1) := by omega
  exact ⟨_, (congrArg (run · s) (hcount _)).trans hrun, rfl, State.STATUS_of_not_FAULT hfault hcause,
    (State.endedWell_iff _).2 ⟨hfault, rfl, rfl, State.hostDone_popTurn hdone⟩, rfl⟩

/-- Settles O43: the second UPDATE is held behind the beats of the first, and its beats start from the remainder that
those leave. -/
theorem streamingFoldsTheConcatenation : Obligations.StreamingFoldsTheConcatenation := by
  unfold Obligations.StreamingFoldsTheConcatenation
  refine ⟨fun s b1 n1 b2 n2 xs ys hready hreset hvalid hturns hspace1 hlength1 hholds1 hspace2 hlength2 hholds2 => ?_,
    fun s t u ht hu => ?_⟩
  · obtain ⟨hfirst, haccept, hdone⟩ :=
      run_present_update_beats hturns hready hreset hvalid hspace1 hlength1 hholds1
    have hsecond := run_update haccept hdone (decode_encode rfl) hspace2 hlength2 hholds2
    exact ⟨_, _, (run_add_of_next hfirst).trans hsecond, State.updated_endedWell haccept hdone b2 n2 ys,
      (fold_append s.R xs ys).symm⟩
  · rw [exec_read] at ht
    cases ht
    rw [exec_load] at hu
    cases hu
    exact xor_K_xor_K s.R

end Sys2Proof.Machine
end
